-- ==== Sys2Proof/Word.lean ====
section
/-! DEFINITION. The word types of the engine (rules R8 and R9): every value is an unsigned bit vector of fixed width. -/

namespace Sys2Proof

/-- A byte, u8: a message byte, a pending byte, a byte lane of the accumulator (R9, R26). -/
abbrev Byte := BitVec 8

/-- A u16: a 16-bit lane of the accumulator (R27). -/
abbrev Word16 := BitVec 16

/-- A u32: CSUM, a mixer unit, a command word, a host-bus word (R8, R9). -/
abbrev Word32 := BitVec 32

/-- A u64: a table entry, LEN, a 64-bit lane of the accumulator (R8, R9). -/
abbrev Word64 := BitVec 64

/-- 16 bytes: the state or the key of the AES round, byte j in bits 8j+7:8j (R161). -/
abbrev Block := BitVec 128

/-- 256 bits: the accumulator or the digest, byte k in bits 8k+7:8k, which is its little-endian reading (R26, R27, R35). -/
abbrev Word256 := BitVec 256

/-- A table index, 11 bits, so always in 0..2047 (R8 INDEX_WIDTH, R60; DESIGN CHOICE of type, log 13, safe). -/
abbrev Index := BitVec 11

end Sys2Proof
end

