-- ==== Sys2Proof/Syntax.lean ====
section
/-! DEFINITION. The commands of the engine, one constructor per row of spec/opcode_table.json (rule R82). -/

namespace Sys2Proof

/-- A command of the engine. The only operand a command word carries is UPDATE's NBM1. RBINIT's seed and UPDATE's bytes
are in ARG (R81, R84). -/
inductive Instr where
  /-- RBINIT: initialize the table from the seed in ARG (R101). -/
  | rbinit
  /-- INIT: start a hash context (R121). -/
  | init
  /-- UPDATE: append `nbm1 + 1` message bytes, 1 to 4 (R80, R124). -/
  | update (nbm1 : BitVec 2)
  /-- FINAL: finish the hash and publish the digest (R130). -/
  | final
  deriving DecidableEq, Repr

end Sys2Proof
end

