-- ==== Sys2Proof/WellFormed.lean ====
section
/-! DEFINITION. Legality of a command word, check by check (rules R80, R83, R85). An `Instr` carries NBM1 as a two-bit
value, so it has no ill-formed term of its own: what can be ill-formed is the three fields of a word. -/

namespace Sys2Proof

/-- The three fields of format C (R80). -/
structure CommandFields where
  /-- OP, bits 7:0: the opcode. -/
  op : BitVec 8
  /-- NBM1, bits 9:8: the number of message bytes minus one. -/
  nbm1 : BitVec 2
  /-- RSV, bits 31:10: reserved, must be 0. -/
  rsv : BitVec 22
  deriving DecidableEq, Repr

/-- R83, first condition: RSV is 0. -/
def CommandFields.reservedClear (f : CommandFields) : Bool := f.rsv == 0

/-- R83, second condition: OP is one of the four opcodes. -/
def CommandFields.opcodeKnown (f : CommandFields) : Bool :=
  f.op == 0x01 || f.op == 0x02 || f.op == 0x03 || f.op == 0x04

/-- R83, third condition: NBM1 is 0 unless the opcode is UPDATE's. -/
def CommandFields.byteCountAllowed (f : CommandFields) : Bool := f.op == 0x03 || f.nbm1 == 0

/-- legal(w) of R83, on the fields of w. -/
def CommandFields.legal (f : CommandFields) : Bool :=
  f.reservedClear && f.opcodeKnown && f.byteCountAllowed

end Sys2Proof
end

