-- ==== Sys2Proof/Decode.lean ====
section
/-! DEFINITION. The decoder of command words, total on all 2^32 words, and the encoder (rules R80, R82, R83, R85). -/

namespace Sys2Proof

/-- Why a word is illegal. Each raises ILLEGAL_CMD (R85, R201). -/
inductive DecodeError where
  /-- A nonzero bit in RSV. -/
  | reservedBits
  /-- OP is 0x00 or 0x05 to 0xFF. -/
  | reservedOpcode
  /-- A nonzero NBM1 with an opcode other than UPDATE. -/
  | strayByteCount
  deriving DecidableEq, Repr

/-- The fields of a command word, format C (R80). -/
def fieldsOf (w : Word32) : CommandFields where
  op := w.extractLsb' 0 8
  nbm1 := w.extractLsb' 8 2
  rsv := w.extractLsb' 10 22

/-- The command word made of three fields, most significant field first (R80). -/
def wordOf (f : CommandFields) : Word32 := f.rsv ++ f.nbm1 ++ f.op

/-- legal(w) of R83. -/
def legal (w : Word32) : Bool := (fieldsOf w).legal

/-- The command that legal fields stand for, or the first check of R83 that refuses them. -/
def decodeFields (f : CommandFields) : Except DecodeError Instr :=
  if !f.reservedClear then .error .reservedBits
  else if !f.opcodeKnown then .error .reservedOpcode
  else if !f.byteCountAllowed then .error .strayByteCount
  else if f.op = 0x01 then .ok .rbinit
  else if f.op = 0x02 then .ok .init
  else if f.op = 0x03 then .ok (.update f.nbm1)
  else .ok .final

/-- The decoder of R83: every word is one of the seven legal words or illegal. -/
def decode (w : Word32) : Except DecodeError Instr := decodeFields (fieldsOf w)

/-- The fields of each command's word (R82). -/
def Instr.fields : Instr → CommandFields
  | .rbinit => { op := 0x01, nbm1 := 0, rsv := 0 }
  | .init => { op := 0x02, nbm1 := 0, rsv := 0 }
  | .update nbm1 => { op := 0x03, nbm1 := nbm1, rsv := 0 }
  | .final => { op := 0x04, nbm1 := 0, rsv := 0 }

/-- The command word of a command (R82). -/
def encode (i : Instr) : Word32 := wordOf i.fields

/-- A command is well-formed when its fields are legal. Every term of `Instr` is (Laws/Decode.lean). -/
def Instr.wellFormed (i : Instr) : Bool := i.fields.legal

/-- A row of the opcode map of R82. -/
structure OpcodeRow where
  mnemonic : String
  matchWord : Word32
  maskWord : Word32
  deriving DecidableEq, Repr

/-- The opcode map of R82, with its match and mask columns. -/
def opcodeMap : List OpcodeRow :=
  [ { mnemonic := "RBINIT", matchWord := 0x00000001, maskWord := 0xFFFFFFFF },
    { mnemonic := "INIT",   matchWord := 0x00000002, maskWord := 0xFFFFFFFF },
    { mnemonic := "UPDATE", matchWord := 0x00000003, maskWord := 0xFFFFFCFF },
    { mnemonic := "FINAL",  matchWord := 0x00000004, maskWord := 0xFFFFFFFF } ]

/-- A word selects a row when `(w & mask) = match` (R82). -/
def OpcodeRow.selectedBy (r : OpcodeRow) (w : Word32) : Bool := w &&& r.maskWord == r.matchWord

/-- The mnemonic of a command, as the opcode map spells it. -/
def Instr.mnemonic : Instr → String
  | .rbinit => "RBINIT"
  | .init => "INIT"
  | .update _ => "UPDATE"
  | .final => "FINAL"

/-- The command the decoder reads from a row's word: the low `nbits` bits of `w`, every bit above them 0. -/
def decodeTableWord (nbits w : Nat) : Option Instr :=
  match decode (BitVec.ofNat 32 (w % 2 ^ nbits)) with
  | .ok i => some i
  | .error _ => none

end Sys2Proof
end

