-- ==== Sys2Proof/Config.lean ====
section
/-! DEFINITION. What the hardware fixes (rule R8), the open algorithm functions as parameters (rules R107, R166), and the
bits the model names for registers whose reset contents are unspecified (rule R23). -/

namespace Sys2Proof.Config

/-- TABLE_ENTRIES (R8, R31): fixed, must never change. -/
def tableEntries : Nat := 2048

/-- RAMBOX_LOOPS (R8, R153): 4 in this hardware. -/
def ramboxLoops : Nat := 4

/-- FINAL_PASSES (R8, R132): 3 in this hardware. -/
def finalPasses : Nat := 3

/-- The engine decodes offsets below this one (R41): 0x0000 to 0x7FFF. -/
def windowBytes : Nat := 0x8000

/-- The algorithmic points that the source leaves open, each a named parameter (R7, R107, R166, U9). ROUND is a parameter of G alone, so it is an
argument of the profile's G (`Machine.gP0`) and no field here (DEDUCED, log 10, safe). `Index` is the 2048 values of R166's `Fin 2048`. -/
structure Profile where
  /-- CRC: the checksum step (R151). -/
  crc : Word32 → Word32 → Word32
  /-- G: the combine of step 3b (R154). -/
  g : Word256 → Word64 → Word32 → Word256
  /-- F: the write-back of step 3c (R155). -/
  f : Word64 → Word256 → Word32 → Word64
  /-- H: the next index of step 3d (R156). -/
  h : Word256 → Word32 → Index
  /-- GEN: the table generator (R102). -/
  gen : Word32 → Index → Word64
  /-- PAD: the padding unit of the pending bytes P0..P(k-1), 0 to 3 of them (R131). It sees no byte at or above PCOUNT, so
  that no choice of it can read one (U8). -/
  pad : List Byte → Word32
  /-- RAMBOX_LOOPS (R153, R166). -/
  loops : Nat
  /-- "Nat, ≥ 1" (R166). -/
  loops_pos : 1 ≤ loops
  /-- The byte order in which four message bytes, the first to arrive first, form a unit (R7, R125). -/
  pack : Byte → Byte → Byte → Byte → Word32
  /-- The byte order in which FINAL copies A out to DIGEST (R7, R133). DESIGN CHOICE of shape (log 10), safe: the two byte
  orders that N9 names are two fields. -/
  digestOf : Word256 → Word256
  /-- FINAL_PASSES, the number of final passes (R7, R8, R132). -/
  finalPasses : Nat
  /-- "one or more additional" passes (R132). -/
  finalPasses_pos : 1 ≤ finalPasses
  /-- The unit of final pass number i, counted from 0, from the padding unit and LEN (R132). DESIGN CHOICE of
  shape (log 10), safe. -/
  passUnit : Nat → Word32 → Word64 → Word32

/-- DESIGN CHOICE (log 5), unsafe: the byte that fills every register whose reset contents the spec calls unspecified. It is
not zero, because U7 says "never as zero". No command and no host read of the model returns it. -/
def unspecifiedByte : Byte := 0xA5

end Sys2Proof.Config
end

