-- ==== Sys2Proof/Machine/State.lean ====
section
/-! DEFINITION. The state of one engine (rule R23) and of its host's side of the bus (rule R222), as plain data, and the
state after reset (rule R230). -/

namespace Sys2Proof.Machine

/-- The codes of STATUS.ERRCODE (R200): five, since 5 to 15 are never produced (U6). -/
inductive ErrCode where
  /-- 0: no fault since reset. -/
  | none
  /-- 1: the CMD word is not one of the seven legal words. -/
  | illegalCmd
  /-- 2: UPDATE or FINAL with CTX = 0. -/
  | noContext
  /-- 3: UPDATE or FINAL with TVALID = 0. -/
  | noTable
  /-- 4: RBINIT with CTX = 1 and LEN ≠ 0. -/
  | rbinitMidhash
  deriving DecidableEq, Repr

/-- The table T, as the list of its entries that hold a value: (index, entry) pairs, indices strictly rising. Its smallest
addressable unit is the whole u64 entry (R60, R62). An unlisted entry has NO value (U7; DESIGN CHOICE, log 6). -/
abbrev Memory := List (Nat × Word64)

/-- The one canonical form of a table: indices strictly rising, each below 2048 (R31). -/
abbrev Memory.wf (m : Memory) : Prop :=
  List.Pairwise (fun a b => a.1 < b.1) m ∧ ∀ c ∈ m, c.1 < Config.tableEntries

/-- What the mixer reads and writes besides its unit (R150, C3): A, CSUM and T. -/
structure MixState where
  acc : Word256
  csum : Word32
  table : Memory
  deriving DecidableEq, Repr

/-- One interaction of the outside with the engine (R222, R230). Offsets count from ENGINE_BASE (R12). -/
inductive Access where
  /-- `MemWrite(offset, bytes, v)`. -/
  | write (offset bytes : Nat) (v : Word32)
  /-- `MemRead(offset, bytes)`. -/
  | read (offset bytes : Nat)
  /-- The platform's reset event (R230). -/
  | reset
  deriving DecidableEq, Repr

/-- The whole state: the registers of R23, then three fields of the model's own. -/
structure State where
  /-- T (R31). -/
  table : Memory
  /-- A, byte A.b[k] in bits 8k+7:8k (R26, R27). -/
  acc : Word256
  /-- CSUM (R28). -/
  csum : Word32
  /-- P0 (R29). -/
  p0 : Byte
  /-- P1 (R29). -/
  p1 : Byte
  /-- P2 (R29). -/
  p2 : Byte
  /-- PCOUNT, 0..3 (R29). -/
  pcount : BitVec 2
  /-- LEN (R30). -/
  len : Word64
  /-- CTX (R25). -/
  ctx : Bool
  /-- TVALID (R33). -/
  tvalid : Bool
  /-- TSEED (R34). -/
  tseed : Word32
  /-- DIGEST, byte D[k] in bits 8k+7:8k (R35). -/
  digest : Word256
  /-- DVALID (R36). -/
  dvalid : Bool
  /-- ERR (R205). -/
  err : Bool
  /-- ERRCODE (R200). -/
  errcode : ErrCode
  /-- ERRCMD (R38). -/
  errcmd : Word32
  /-- ARG (R39). -/
  arg : Word32
  /-- The model's own: a FINAL has completed since reset, which R36 and U3 make a DIGEST read turn on (log 7). -/
  finalDone : Bool
  /-- The model's own: the host's accesses still to be made, oldest first (log 1). -/
  pending : List Access
  /-- The model's own: the values the host's reads returned, oldest first (log 4). -/
  replies : List Word32
  deriving DecidableEq, Repr

/-- Why the model stops. An ENGINE fault is no stop: it is the error entry of R203, a next state. -/
inductive Fault where
  /-- Raised by a host read of DIGESTk when no FINAL has completed since reset (R36, U3): "a model treats the host read as a
  fault of the host program". Safe: the hardware returns bits without meaning. -/
  | digestUnspecified
  /-- Raised by a host read of TWIN_LO[i] or TWIN_HI[i] while TVALID = 0 (R42, U2). Safe, as above. -/
  | windowUnspecified
  /-- Raised where the mixer or a window read meets a table entry that holds no value although TVALID = 1. No run reaches
  such a state (R44 item 5, R45). Safe. -/
  | tableEntryAbsent
  deriving DecidableEq, Repr

/-- What the model has no meaning for. -/
inductive Refusal where
  /-- Raised by exec's arm for an instruction that has no meaning yet. Safe. None is left. -/
  | notModelled (mnemonic : String)
  /-- Raised by a host access that is not 32 bits wide: outside the interface (R62, R223, U5). Safe. -/
  | accessWidth
  /-- Raised by a host access at an offset that is not a multiple of 4 (R62, R223, U5). Safe. -/
  | accessMisaligned
  /-- Raised by a host access outside 0x0000 to 0x7FFF: such an address belongs to the platform (R41). Safe. -/
  | accessOutsideMap
  deriving DecidableEq, Repr

/-- Contents of the registers that reset leaves unspecified (R23, R230): one draw of the bits they happen to hold. -/
structure ResetDraw where
  acc : Word256
  csum : Word32
  p0 : Byte
  p1 : Byte
  p2 : Byte
  len : Word64
  digest : Word256
  deriving DecidableEq, Repr

/-- The state after reset (R230), with a given draw in the registers the spec leaves unspecified. No table entry holds a
value (U7, R231). -/
def State.resetWith (d : ResetDraw) : State where
  table := []
  acc := d.acc
  csum := d.csum
  p0 := d.p0
  p1 := d.p1
  p2 := d.p2
  pcount := 0
  len := d.len
  ctx := false
  tvalid := false
  tseed := 0x00000000
  digest := d.digest
  dvalid := false
  err := false
  errcode := .none
  errcmd := 0x00000000
  arg := 0x00000000
  finalDone := false
  pending := []
  replies := []

/-- DESIGN CHOICE (log 5), unsafe: the draw the model names, every byte `Config.unspecifiedByte`. -/
def ResetDraw.named : ResetDraw where
  acc := BitVec.replicate 32 Config.unspecifiedByte
  csum := BitVec.replicate 4 Config.unspecifiedByte
  p0 := Config.unspecifiedByte
  p1 := Config.unspecifiedByte
  p2 := Config.unspecifiedByte
  len := BitVec.replicate 8 Config.unspecifiedByte
  digest := BitVec.replicate 32 Config.unspecifiedByte

/-- The machine right after reset (R230). -/
def State.reset : State := State.resetWith ResetDraw.named

end Sys2Proof.Machine
end

