-- ==== Sys2Proof/Machine/Ops.lean ====
section
/-! DEFINITION. The named operations on the table and the registers, the guards of a command, and the error entry (rules
R203, R205, R207). -/

namespace Sys2Proof.Machine

/-- What a command, an access or a step answers. -/
abbrev Result := Host.Outcome State Fault Refusal

/-! ### The table -/

/-- `T[i]`: the value of entry i, if it holds one (R12, R69). -/
def Memory.read : Memory → Nat → Option Word64
  | [], _ => none
  | (j, v) :: rest, i => if i = j then some v else Memory.read rest i

/-- `T[i] <- v` (R12), keeping the canonical form. -/
def Memory.write : Memory → Nat → Word64 → Memory
  | [], i, v => [(i, v)]
  | (j, u) :: rest, i, v =>
    if i < j then (i, v) :: (j, u) :: rest
    else if i = j then (i, v) :: rest
    else (j, u) :: Memory.write rest i v

/-- The table whose every entry i is `f i`: what 2048 writes in the order i = 0..2047 leave (R101, log 14). Irreducible, so
that the elaborator does not build 2048 entries unasked: `Memory.read_fill` says what it holds. -/
@[irreducible] def Memory.fill (f : Index → Word64) : Memory :=
  (List.range Config.tableEntries).map fun i => (i, f (BitVec.ofNat 11 i))

/-- Every entry of T holds a value (R44 item 5). -/
abbrev Memory.full (m : Memory) : Prop := ∀ i < Config.tableEntries, (m.read i).isSome = true

/-! ### Named updates of the registers -/

/-- The host has made its oldest access; `rest` remains. -/
def State.withPending (rest : List Access) (s : State) : State := { s with pending := rest }

/-- A host read returned `v` (R222). -/
def State.reply (v : Word32) (s : State) : State := { s with replies := s.replies ++ [v] }

/-- `ARG <- v` (R39). -/
def State.setArg (v : Word32) (s : State) : State := { s with arg := v }

/-- The end of RBINIT: T is `t`, TVALID is 1, TSEED is the seed (R101). -/
def State.loadTable (t : Memory) (seed : Word32) (s : State) : State :=
  { s with table := t, tvalid := true, tseed := seed }

/-- The effect of INIT (R121). -/
def State.openContext (s : State) : State :=
  { s with acc := 0, csum := 0x00000000, pcount := 0, len := 0x0000000000000000, ctx := true, dvalid := false }

/-- `LEN <- LEN + 1`, modulo 2^64 (R30, R126). -/
def State.countByte (s : State) : State := { s with len := s.len + 1 }

/-- `P[k] <- b` for k = 0..2 (R126). -/
def State.storePending (k : BitVec 2) (b : Byte) (s : State) : State :=
  { s with
    p0 := if k = 0 then b else s.p0
    p1 := if k = 1 then b else s.p1
    p2 := if k = 2 then b else s.p2 }

/-- `PCOUNT <- k`. -/
def State.setPcount (k : BitVec 2) (s : State) : State := { s with pcount := k }

/-- The part of the state that Mix reads (R150). -/
def State.mixState (s : State) : MixState := { acc := s.acc, csum := s.csum, table := s.table }

/-- "Return updated `A`, `c`, and mutated `T` to the context" (R158). -/
def State.putMix (m : MixState) (s : State) : State := { s with acc := m.acc, csum := m.csum, table := m.table }

/-- The end of FINAL: D <- d, CTX <- 0, DVALID <- 1, PCOUNT <- 0 (R130, R133). -/
def State.publish (d : Word256) (s : State) : State :=
  { s with digest := d, ctx := false, dvalid := true, pcount := 0, finalDone := true }

/-! ### The error entry and the guards of a command -/

/-- `raise Fault(code)` while the CMD word `w` is being executed (R203). Only reached with ERR = 0. -/
def State.raise (code : ErrCode) (w : Word32) (s : State) : State :=
  { s with err := true, errcode := code, errcmd := w }

/-- While ERR = 1 a command is ignored, with no effect at all (R205). DESIGN CHOICE (log 16), safe: checked here as well as at
the CMD write. -/
def unlessFaulted (s : State) (k : Result) : Result := if s.err then .next s else k

/-- A check of R201 at the top of command `i`: where `bad` holds the command ends in the error entry (R203, R204). -/
def check (bad : Bool) (code : ErrCode) (i : Instr) (s : State) (k : Result) : Result :=
  if bad then .next (s.raise code (encode i)) else k

/-- The end of a command that reads the table: the model stops where it met an entry that holds no value, which no run
does (R45). DESIGN CHOICE (log 17), safe. -/
def orTableFault : Option State → Result
  | some s => .next s
  | none => .fault .tableEntryAbsent

/-! ### Reset -/

/-- The platform's reset event (R230): exactly the reset state. What the host still has to send, and what it has already
been told, is the host's and not the engine's. DEDUCED (log 11), safe: a command cut short by reset leaves no effect. -/
def State.platformReset (s : State) : State :=
  { State.reset with pending := s.pending, replies := s.replies }

end Sys2Proof.Machine
end

