-- ==== Sys2Proof/Machine/Mixer.lean ====
section
/-! DEFINITION. The round mixer Mix(u), over the open algorithm functions as parameters (rules R150 to R159, R166). -/

namespace Sys2Proof.Machine

/-- The working values of the mixer's loop, which exist only during one Mix (R43, R158). -/
structure Walk where
  idx : Index
  acc : Word256
  table : Memory
  deriving DecidableEq, Repr

/-- One iteration of step 3 (R150): read, combine, write back with the new A, next index. None where T[idx] holds no value. -/
def walkStep (p : Config.Profile) (c : Word32) (w : Walk) : Option Walk :=
  (w.table.read w.idx.toNat).map fun e =>
    { idx := p.h (p.g w.acc e c) c
      acc := p.g w.acc e c
      table := w.table.write w.idx.toNat (p.f e (p.g w.acc e c) c) }

/-- `n` iterations, one after the other (R153). -/
def walk (p : Config.Profile) (c : Word32) : Nat → Walk → Option Walk
  | 0, w => some w
  | n + 1, w => (walkStep p c w).bind (walk p c n)

/-- Where the loop of Mix(u) starts: the new CSUM (R151), the first index taken from it (R152). -/
def mixStart (p : Config.Profile) (u : Word32) (m : MixState) : Walk :=
  { idx := (p.crc m.csum u).extractLsb' 0 11, acc := m.acc, table := m.table }

/-- Mix(u) (R150). The last index is discarded (R158). -/
def mix (p : Config.Profile) (u : Word32) (m : MixState) : Option MixState :=
  (walk p (p.crc m.csum u) p.loops (mixStart p u m)).map fun w =>
    { acc := w.acc, csum := p.crc m.csum u, table := w.table }

/-- Mix on each unit of a list, in order (R132, R135). -/
def mixUnits (p : Config.Profile) : List Word32 → MixState → Option MixState
  | [], m => some m
  | u :: us, m => (mix p u m).bind (mixUnits p us)

/-- The units of FINAL's passes (R132), from the pending bytes and LEN. -/
def passUnits (p : Config.Profile) (pending : List Byte) (len : Word64) : List Word32 :=
  (List.range p.finalPasses).map fun i => p.passUnit i (p.pad pending) len

/-- Mix(u) on the engine's own A, CSUM and T (R150, R158, R159). -/
def State.mix (p : Config.Profile) (u : Word32) (s : State) : Option State :=
  (Machine.mix p u s.mixState).map fun m => s.putMix m

/-- The passes of FINAL on the engine's own A, CSUM and T (R132). -/
def State.mixUnits (p : Config.Profile) (us : List Word32) (s : State) : Option State :=
  (Machine.mixUnits p us s.mixState).map fun m => s.putMix m

end Sys2Proof.Machine
end

