-- ==== Sys2Proof/Machine/Bits.lean ====
section
/-! DEFINITION. Bit fields, byte order, rotation and the lane views of the accumulator (rules R9, R10, R11, R27). -/

namespace Sys2Proof.Machine

/-- `lo32(x) = x[31:0]` (R9). -/
def lo32 (x : Word64) : Word32 := x.extractLsb' 0 32

/-- `hi32(x) = x[63:32]` (R9). -/
def hi32 (x : Word64) : Word32 := x.extractLsb' 32 32

/-- `rotl64(x, r)` for 0 ≤ r ≤ 63 (R10). -/
def rotl64 (x : Word64) (r : Nat) : Word64 := if r = 0 then x else (x <<< r) ||| (x >>> (64 - r))

/-- LE16 (R11). -/
def le16 (b0 b1 : Byte) : Word16 := b1 ++ b0

/-- LE32 (R11). -/
def le32 (b0 b1 b2 b3 : Byte) : Word32 := b3 ++ b2 ++ b1 ++ b0

/-- LE64 (R11). -/
def le64 (b0 b1 b2 b3 b4 b5 b6 b7 : Byte) : Word64 := b7 ++ b6 ++ b5 ++ b4 ++ b3 ++ b2 ++ b1 ++ b0

/-- Byte j of `bytesLE_N(v)`, bits 8j+7:8j (R11). -/
def byteLE {n : Nat} (v : BitVec n) (j : Nat) : Byte := v.extractLsb' (8 * j) 8

/-- `bytesLE_N(v)`: the bytes of v, least significant first (R11). -/
def bytesLE {n : Nat} (v : BitVec n) : List Byte := (List.range (n / 8)).map (byteLE v)

/-- The lane of width `w` at lane number `k` (R27): bits w·k+w-1 : w·k. -/
def lane (w : Nat) (a : Word256) (k : Nat) : BitVec w := a.extractLsb' (w * k) w

/-- A.b[k], k = 0..31 (R27). -/
def accB (a : Word256) (k : Nat) : Byte := lane 8 a k

/-- A.w[k], k = 0..15 (R27). -/
def accW (a : Word256) (k : Nat) : Word16 := lane 16 a k

/-- A.d[k], k = 0..7 (R27). -/
def accD (a : Word256) (k : Nat) : Word32 := lane 32 a k

/-- A.q[k], k = 0..3 (R27). -/
def accQ (a : Word256) (k : Nat) : Word64 := lane 64 a k

/-- A write of a lane writes the bytes the lane covers and no others (R27). -/
def setLane (w : Nat) (a : Word256) (k : Nat) (v : BitVec w) : Word256 :=
  (a &&& ~~~((BitVec.allOnes w).setWidth 256 <<< (w * k))) ||| (v.setWidth 256 <<< (w * k))

/-- The accumulator whose four 64-bit lanes are given, A.q[0] first (R27). -/
def ofQ (q0 q1 q2 q3 : Word64) : Word256 := q3 ++ q2 ++ q1 ++ q0

/-- A block of 16 bytes, byte j first in the low bits (R161). -/
def blockOf (f : Nat → Byte) : Block :=
  f 15 ++ f 14 ++ f 13 ++ f 12 ++ f 11 ++ f 10 ++ f 9 ++ f 8 ++ f 7 ++ f 6 ++ f 5 ++ f 4 ++ f 3 ++ f 2 ++ f 1 ++ f 0

/-- The block `bytesLE_64(lo) ++ bytesLE_64(hi)`: the lower lane's bytes first (R61, R154). -/
def blockOfLanes (lo hi : Word64) : Block := hi ++ lo

/-- `LE64(o[0..7])` of a block (R154). -/
def blockLo (o : Block) : Word64 := o.extractLsb' 0 64

/-- `LE64(o[8..15])` of a block (R154). -/
def blockHi (o : Block) : Word64 := o.extractLsb' 64 64

end Sys2Proof.Machine
end

