-- ==== Sys2Proof/Machine/Operands.lean ====
section
/-! DEFINITION. The operands a command takes from ARG (rules R81, R84) and the register map a host access names (rule R41). -/

namespace Sys2Proof.Machine

/-- UPDATE's n = NBM1 + 1 (R84). -/
def byteCount (nbm1 : BitVec 2) : Nat := nbm1.toNat + 1

/-- UPDATE's message bytes: the low n bytes of ARG, low byte first (R84, R124). -/
def argBytes (nbm1 : BitVec 2) (arg : Word32) : List Byte :=
  [byteLE arg 0, byteLE arg 1, byteLE arg 2, byteLE arg 3].take (byteCount nbm1)

/-- The host-visible registers of R41. -/
inductive Reg where
  /-- CMD, write-only, reads 0 (R40). -/
  | cmd
  /-- ARG, read-write (R39). -/
  | arg
  /-- STATUS, read-only (R37). -/
  | status
  /-- ERRCMD, read-only (R38). -/
  | errcmd
  /-- TSEED, read-only (R34). -/
  | tseed
  /-- DIGESTk, k = 0..7, read-only (R35). -/
  | digest (k : BitVec 3)
  /-- TWIN_LO[i], read-only (R42). -/
  | twinLo (i : Index)
  /-- TWIN_HI[i], read-only (R42). -/
  | twinHi (i : Index)
  /-- A reserved offset: reads 0, writes ignored (R41, U4). -/
  | reserved
  deriving DecidableEq, Repr

/-- The register at a word-aligned offset from ENGINE_BASE, or none outside 0x0000 to 0x7FFF (R41). -/
def regAt (offset : Nat) : Option Reg :=
  if Config.windowBytes ≤ offset then none
  else if 0x4000 ≤ offset then
    if (offset - 0x4000) % 8 < 4 then some (.twinLo (BitVec.ofNat 11 ((offset - 0x4000) / 8)))
    else some (.twinHi (BitVec.ofNat 11 ((offset - 0x4000) / 8)))
  else if 0x0020 ≤ offset ∧ offset < 0x0040 then some (.digest (BitVec.ofNat 3 ((offset - 0x0020) / 4)))
  else if offset = 0x0000 then some .cmd
  else if offset = 0x0004 then some .arg
  else if offset = 0x0008 then some .status
  else if offset = 0x000C then some .errcmd
  else if offset = 0x0010 then some .tseed
  else some .reserved

/-- The offset of a named register (R41). A reserved offset has no name: 0x0014 stands for the first of them. -/
def offsetOf : Reg → Nat
  | .cmd => 0x0000
  | .arg => 0x0004
  | .status => 0x0008
  | .errcmd => 0x000C
  | .tseed => 0x0010
  | .digest k => 0x0020 + 4 * k.toNat
  | .twinLo i => 0x4000 + 8 * i.toNat
  | .twinHi i => 0x4004 + 8 * i.toNat
  | .reserved => 0x0014

end Sys2Proof.Machine
end

