-- ==== Sys2Proof/Machine/Primitives.lean ====
section
/-! DEFINITION. The primitives of profile RFS-P0: the CRC step (R160), the AES round (R161 to R165), the combine, write-back
and next index (R154 to R156), the table generator (R102) and the padding unit (R131). -/

namespace Sys2Proof.Machine

/-! ### The CRC32 step -/

/-- The reflected polynomial of R160. -/
def crcPoly : Word32 := 0xEDB88320

/-- One bit of the CRC loop of R160. -/
def crcShift (x : Word32) : Word32 := if x.getLsbD 0 then (x >>> 1) ^^^ crcPoly else x >>> 1

/-- `n` bits of the CRC loop of R160. -/
def crcShifts : Nat → Word32 → Word32
  | 0, x => x
  | n + 1, x => crcShifts n (crcShift x)

/-- CRC32W_IEEE(c, u) (R160). -/
def crc32w (c u : Word32) : Word32 := crcShifts 32 (c ^^^ u)

/-- The update by one byte, "the byte form of this loop" (R160). -/
def crc32b (c : Word32) (b : Byte) : Word32 := crcShifts 8 (c ^^^ b.setWidth 32)

/-! ### The AES encryption round -/

/-- Row 0 of SBOX (R162). -/
def sboxRow0 : List Byte :=
  [0x63, 0x7C, 0x77, 0x7B, 0xF2, 0x6B, 0x6F, 0xC5, 0x30, 0x01, 0x67, 0x2B, 0xFE, 0xD7, 0xAB, 0x76]

/-- Row 1 of SBOX (R162). -/
def sboxRow1 : List Byte :=
  [0xCA, 0x82, 0xC9, 0x7D, 0xFA, 0x59, 0x47, 0xF0, 0xAD, 0xD4, 0xA2, 0xAF, 0x9C, 0xA4, 0x72, 0xC0]

/-- Row 2 of SBOX (R162). -/
def sboxRow2 : List Byte :=
  [0xB7, 0xFD, 0x93, 0x26, 0x36, 0x3F, 0xF7, 0xCC, 0x34, 0xA5, 0xE5, 0xF1, 0x71, 0xD8, 0x31, 0x15]

/-- Row 3 of SBOX (R162). -/
def sboxRow3 : List Byte :=
  [0x04, 0xC7, 0x23, 0xC3, 0x18, 0x96, 0x05, 0x9A, 0x07, 0x12, 0x80, 0xE2, 0xEB, 0x27, 0xB2, 0x75]

/-- Row 4 of SBOX (R162). -/
def sboxRow4 : List Byte :=
  [0x09, 0x83, 0x2C, 0x1A, 0x1B, 0x6E, 0x5A, 0xA0, 0x52, 0x3B, 0xD6, 0xB3, 0x29, 0xE3, 0x2F, 0x84]

/-- Row 5 of SBOX (R162). -/
def sboxRow5 : List Byte :=
  [0x53, 0xD1, 0x00, 0xED, 0x20, 0xFC, 0xB1, 0x5B, 0x6A, 0xCB, 0xBE, 0x39, 0x4A, 0x4C, 0x58, 0xCF]

/-- Row 6 of SBOX (R162). -/
def sboxRow6 : List Byte :=
  [0xD0, 0xEF, 0xAA, 0xFB, 0x43, 0x4D, 0x33, 0x85, 0x45, 0xF9, 0x02, 0x7F, 0x50, 0x3C, 0x9F, 0xA8]

/-- Row 7 of SBOX (R162). -/
def sboxRow7 : List Byte :=
  [0x51, 0xA3, 0x40, 0x8F, 0x92, 0x9D, 0x38, 0xF5, 0xBC, 0xB6, 0xDA, 0x21, 0x10, 0xFF, 0xF3, 0xD2]

/-- Row 8 of SBOX (R162). -/
def sboxRow8 : List Byte :=
  [0xCD, 0x0C, 0x13, 0xEC, 0x5F, 0x97, 0x44, 0x17, 0xC4, 0xA7, 0x7E, 0x3D, 0x64, 0x5D, 0x19, 0x73]

/-- Row 9 of SBOX (R162). -/
def sboxRow9 : List Byte :=
  [0x60, 0x81, 0x4F, 0xDC, 0x22, 0x2A, 0x90, 0x88, 0x46, 0xEE, 0xB8, 0x14, 0xDE, 0x5E, 0x0B, 0xDB]

/-- Row A of SBOX (R162). -/
def sboxRowA : List Byte :=
  [0xE0, 0x32, 0x3A, 0x0A, 0x49, 0x06, 0x24, 0x5C, 0xC2, 0xD3, 0xAC, 0x62, 0x91, 0x95, 0xE4, 0x79]

/-- Row B of SBOX (R162). -/
def sboxRowB : List Byte :=
  [0xE7, 0xC8, 0x37, 0x6D, 0x8D, 0xD5, 0x4E, 0xA9, 0x6C, 0x56, 0xF4, 0xEA, 0x65, 0x7A, 0xAE, 0x08]

/-- Row C of SBOX (R162). -/
def sboxRowC : List Byte :=
  [0xBA, 0x78, 0x25, 0x2E, 0x1C, 0xA6, 0xB4, 0xC6, 0xE8, 0xDD, 0x74, 0x1F, 0x4B, 0xBD, 0x8B, 0x8A]

/-- Row D of SBOX (R162). -/
def sboxRowD : List Byte :=
  [0x70, 0x3E, 0xB5, 0x66, 0x48, 0x03, 0xF6, 0x0E, 0x61, 0x35, 0x57, 0xB9, 0x86, 0xC1, 0x1D, 0x9E]

/-- Row E of SBOX (R162). -/
def sboxRowE : List Byte :=
  [0xE1, 0xF8, 0x98, 0x11, 0x69, 0xD9, 0x8E, 0x94, 0x9B, 0x1E, 0x87, 0xE9, 0xCE, 0x55, 0x28, 0xDF]

/-- Row F of SBOX (R162). -/
def sboxRowF : List Byte :=
  [0x8C, 0xA1, 0x89, 0x0D, 0xBF, 0xE6, 0x42, 0x68, 0x41, 0x99, 0x2D, 0x0F, 0xB0, 0x54, 0xBB, 0x16]

/-- The rows of SBOX, by high nibble (R162). -/
def sboxRows : List (List Byte) :=
  [sboxRow0, sboxRow1, sboxRow2, sboxRow3, sboxRow4, sboxRow5, sboxRow6, sboxRow7] ++
  [sboxRow8, sboxRow9, sboxRowA, sboxRowB, sboxRowC, sboxRowD, sboxRowE, sboxRowF]

/-- SBOX[a]: row the high nibble, column the low nibble (R162). -/
def sbox (a : Byte) : Byte := (sboxRows.getD (a.toNat / 16) []).getD (a.toNat % 16) 0

/-- Multiplication by 2 in GF(2^8) (R164). -/
def xtime (a : Byte) : Byte := (a <<< 1) ^^^ (if a.getLsbD 7 then 0x1B else 0x00)

/-- Multiplication by 3 in GF(2^8) (R164). -/
def mul3 (a : Byte) : Byte := xtime a ^^^ a

/-- SubBytes (R162). -/
def subBytes (s : Block) : Block := blockOf fun j => sbox (byteLE s j)

/-- ShiftRows (R163): byte r + 4c comes from column c + r. -/
def shiftRows (s : Block) : Block := blockOf fun j => byteLE s (j % 4 + 4 * ((j / 4 + j % 4) % 4))

/-- Byte k of the image of the column a0..a3 under MixColumns (R164). -/
def mixColumnByte (a0 a1 a2 a3 : Byte) (k : Nat) : Byte :=
  match k with
  | 0 => xtime a0 ^^^ mul3 a1 ^^^ a2 ^^^ a3
  | 1 => a0 ^^^ xtime a1 ^^^ mul3 a2 ^^^ a3
  | 2 => a0 ^^^ a1 ^^^ xtime a2 ^^^ mul3 a3
  | _ => mul3 a0 ^^^ a1 ^^^ a2 ^^^ xtime a3

/-- MixColumns (R164), column by column. -/
def mixColumns (t : Block) : Block := blockOf fun j =>
  mixColumnByte (byteLE t (4 * (j / 4))) (byteLE t (4 * (j / 4) + 1)) (byteLE t (4 * (j / 4) + 2))
    (byteLE t (4 * (j / 4) + 3)) (j % 4)

/-- AESENC(state, key) (R165). -/
def aesenc (s k : Block) : Block := mixColumns (shiftRows (subBytes s)) ^^^ k

/-- Multiplication in GF(2^8) modulo 0x11B by the bits of the second factor, lowest first, for the definition of SBOX in
R162. -/
def gfMulBits : Nat → Byte → Byte → Byte
  | 0, _, _ => 0
  | n + 1, a, b => (if b.getLsbD 0 then a else 0) ^^^ gfMulBits n (xtime a) (b >>> 1)

/-- Multiplication in GF(2^8) modulo x^8 + x^4 + x^3 + x + 1 (R162). -/
def gfMul (a b : Byte) : Byte := gfMulBits 8 a b

/-- The affine map of R162. -/
def sboxAffine (b : Byte) : Byte :=
  b ^^^ b.rotateLeft 1 ^^^ b.rotateLeft 2 ^^^ b.rotateLeft 3 ^^^ b.rotateLeft 4 ^^^ 0x63

/-! ### Combine, write-back, next index -/

/-- G_P0 (R154), over the AES round as a parameter (R166 ROUND). -/
def gP0 (round : Block → Block → Block) (a : Word256) (e : Word64) (c : Word32) : Word256 :=
  let r := (c.extractLsb' 0 6).toNat
  let s0 := accQ a 0 + e
  let s1 := rotl64 (accQ a 1 ^^^ e) r
  let o := round (blockOfLanes s0 s1) (blockOfLanes (accQ a 2) (accQ a 3))
  let n0 := blockLo o
  let n1 := blockHi o
  ofQ n0 n1 (accQ a 2 + (n0 ^^^ e)) (rotl64 (accQ a 3 ^^^ n1) 23)

/-- F_P0 (R155), on the accumulator that step 3b produced. -/
def fP0 (e : Word64) (a : Word256) (c : Word32) : Word64 :=
  rotl64 (e ^^^ accQ a 3) 11 + (accQ a 0 ^^^ c.setWidth 64)

/-- H_P0 (R156). -/
def hP0 (a : Word256) (c : Word32) : Index := (accD a 2 ^^^ c).extractLsb' 0 11

/-! ### The table generator and the padding unit -/

/-- GAMMA (R102). -/
def genGamma : Word64 := 0x9E3779B97F4A7C15

/-- C1 (R102). -/
def genC1 : Word64 := 0xBF58476D1CE4E5B9

/-- C2 (R102). -/
def genC2 : Word64 := 0x94D049BB133111EB

/-- The steps of GEN after the addition of GAMMA (R102). -/
def genFinalize (x : Word64) : Word64 :=
  let z := (x ^^^ (x >>> 30)) * genC1
  let y := (z ^^^ (z >>> 27)) * genC2
  y ^^^ (y >>> 31)

/-- SPLITMIX64_P0: GEN(zext_64(seed), i) (R102). -/
def genP0 (seed : Word32) (i : Index) : Word64 :=
  genFinalize (seed.setWidth 64 + (i.setWidth 64 + 1) * genGamma)

/-- PAD_P0 (R131): `LE32([P0 .. P(k-1)] ++ [0x80] ++ [0x00] * (3 - k))`, for k ≤ 3 pending bytes. -/
def padP0 (bs : List Byte) : Word32 :=
  let padded := bs ++ [0x80] ++ List.replicate (3 - bs.length) 0x00
  le32 (padded.getD 0 0) (padded.getD 1 0) (padded.getD 2 0) (padded.getD 3 0)

end Sys2Proof.Machine
end

