-- ==== Sys2Proof/Machine/Profile.lean ====
section
/-! DEFINITION. The profile RFS-P0, the algorithm of this hardware (rules R7, R8, R107, R125, R132, R133, R166). -/

namespace Sys2Proof.Machine

/-- The unit of final pass i of RFS-P0 (R132): the padding unit, lo32(LEN), hi32(LEN). -/
def passUnitP0 (i : Nat) (padUnit : Word32) (len : Word64) : Word32 :=
  if i = 0 then padUnit else if i = 1 then lo32 len else hi32 len

/-- RFS-P0 with its AES round left as a parameter (R166 ROUND). -/
def profileWithRound (round : Block → Block → Block) : Config.Profile where
  crc := crc32w
  g := gP0 round
  f := fP0
  h := hP0
  gen := genP0
  pad := padP0
  loops := Config.ramboxLoops
  loops_pos := by decide
  pack := le32
  digestOf := id
  finalPasses := Config.finalPasses
  finalPasses_pos := by decide
  passUnit := passUnitP0

/-- RFS-P0 (R7): ROUND = AESENC. -/
def rfsP0 : Config.Profile := profileWithRound aesenc

end Sys2Proof.Machine
end

