-- ==== Sys2Proof/Machine/Hasher.lean ====
section
/-! DEFINITION. INIT, UPDATE and FINAL, the incremental hasher (rules R120 to R134), over the open algorithm functions as
parameters, and at the profile of this hardware. -/

namespace Sys2Proof.Machine

/-- INIT (R121). Legal in every state with ERR = 0. -/
def execInit (s : State) : Result := unlessFaulted s (.next s.openContext)

/-- UpdateByte(b) (R126). The fourth byte is never stored: it forms the unit, and the buffer is cleared in the same step. -/
def updateByte (p : Config.Profile) (b : Byte) (s : State) : Option State :=
  if s.pcount = 3 then (s.countByte.mix p (p.pack s.p0 s.p1 s.p2 b)).map (State.setPcount 0)
  else some ((s.countByte.storePending s.pcount b).setPcount (s.pcount + 1))

/-- UpdateByte on each byte of a list, in order (R124). -/
def feed (p : Config.Profile) : List Byte → State → Option State
  | [], s => some s
  | b :: bs, s => (updateByte p b s).bind (feed p bs)

/-- UPDATE (R124). The checks run in the order NO_CONTEXT, NO_TABLE (R201, R207). -/
def updateWith (p : Config.Profile) (nbm1 : BitVec 2) (s : State) : Result :=
  unlessFaulted s <|
  check (!s.ctx) .noContext (.update nbm1) s <|
  check (!s.tvalid) .noTable (.update nbm1) s <|
  orTableFault (feed p (argBytes nbm1 s.arg) s)

/-- UPDATE of this hardware (R124). -/
def execUpdate (nbm1 : BitVec 2) (s : State) : Result := updateWith rfsP0 nbm1 s

/-- The pending bytes P0..P(PCOUNT-1) (R29). The bytes at or above PCOUNT hold no meaning and are not
read (U8; DEDUCED, log 15, safe). -/
def State.pendingBytes (s : State) : List Byte := [s.p0, s.p1, s.p2].take s.pcount.toNat

/-- The units of FINAL's passes in a state (R132). -/
def finalUnits (p : Config.Profile) (s : State) : List Word32 := passUnits p s.pendingBytes s.len

/-- FINAL (R130). The checks run in the order NO_CONTEXT, NO_TABLE (R201, R207). -/
def finalWith (p : Config.Profile) (s : State) : Result :=
  unlessFaulted s <|
  check (!s.ctx) .noContext .final s <|
  check (!s.tvalid) .noTable .final s <|
  orTableFault ((s.mixUnits p (finalUnits p s)).map fun t => t.publish (p.digestOf t.acc))

/-- FINAL of this hardware (R130). -/
def execFinal (s : State) : Result := finalWith rfsP0 s

end Sys2Proof.Machine
end

