-- ==== Sys2Proof/Machine/Rambox.lean ====
section
/-! DEFINITION. RBINIT, the table initializer (rules R100 to R107). -/

namespace Sys2Proof.Machine

/-- RBINIT (R101) over the open generator GEN (R107). -/
def rbinitWith (p : Config.Profile) (s : State) : Result :=
  unlessFaulted s <|
  check (s.ctx && s.len != 0) .rbinitMidhash .rbinit s <|
  .next (s.loadTable (Memory.fill (p.gen s.arg)) s.arg)

/-- RBINIT of this hardware: GEN is SPLITMIX64_P0 (R101, R102). -/
def execRbinit (s : State) : Result := rbinitWith rfsP0 s

end Sys2Proof.Machine
end

