-- ==== Sys2Proof/Machine/Dispatch.lean ====
section
/-! DEFINITION. exec: one arm per command, each one direct call of its meaning (rule R82). -/

namespace Sys2Proof.Machine

def exec (i : Instr) (s : State) : Host.Outcome State Fault Refusal :=
  match i with
  | .rbinit => Sys2Proof.Machine.execRbinit s
  | .init => Sys2Proof.Machine.execInit s
  | .update nbm1 => Sys2Proof.Machine.execUpdate nbm1 s
  | .final => Sys2Proof.Machine.execFinal s

end Sys2Proof.Machine
end

