-- ==== Sys2Proof/Machine/Flags.lean ====
section
/-! DEFINITION. The STATUS register, assembled from the engine's status bits (rules R37, R200). -/

namespace Sys2Proof.Machine

/-- The four bits of an error code (R200). -/
def ErrCode.bits : ErrCode → BitVec 4
  | .none => 0
  | .illegalCmd => 1
  | .noContext => 2
  | .noTable => 3
  | .rbinitMidhash => 4

/-- STATUS (R37), from bit 31 down: reserved 31:12, ERRCODE 11:8, reserved 7:6, PCOUNT 5:4, ERR, DVALID, TVALID, CTX. -/
def State.status (s : State) : Word32 :=
  (0 : BitVec 20) ++ s.errcode.bits ++ (0 : BitVec 2) ++ s.pcount ++ BitVec.ofBool s.err ++ BitVec.ofBool s.dvalid
    ++ BitVec.ofBool s.tvalid ++ BitVec.ofBool s.ctx

end Sys2Proof.Machine
end

