-- ==== Sys2Proof/Machine/Bus.lean ====
section
/-! DEFINITION. What one host access does (rules R40 to R42, R62, R65, R205, R222, R223). -/

namespace Sys2Proof.Machine

/-- A write of the word `w` to CMD issues the command it encodes (R40). While ERR = 1 it is ignored before it is decoded
(R83, R205); an illegal word raises ILLEGAL_CMD (R83). -/
def writeCmd (w : Word32) (s : State) : Result :=
  if s.err then .next s
  else
    match decode w with
    | .ok i => exec i s
    | .error _ => .next (s.raise .illegalCmd w)

/-- A host write of a 32-bit word to a register: CMD issues a command, ARG takes the value, every other write is ignored
(R41). -/
def writeReg (r : Reg) (v : Word32) (s : State) : Result :=
  match r with
  | .cmd => writeCmd v s
  | .arg => .next (s.setArg v)
  | .status | .errcmd | .tseed | .digest _ | .twinLo _ | .twinHi _ | .reserved => .next s

/-- A window read of a half of T[i] (R42). With TVALID = 0 the read has no value (U2; log 8, safe). -/
def readWindow (half : Word64 → Word32) (i : Index) (s : State) : Except Fault Word32 :=
  if !s.tvalid then .error .windowUnspecified
  else
    match s.table.read i.toNat with
    | some e => .ok (half e)
    | none => .error .tableEntryAbsent

/-- DIGESTk = A.d[k] of the last FINAL (R35). Before the first FINAL since reset the read has no value (R36, U3;
log 8, safe). -/
def readDigest (k : BitVec 3) (s : State) : Except Fault Word32 :=
  if s.finalDone then .ok (accD s.digest k.toNat) else .error .digestUnspecified

/-- The value a host read of a register returns (R37 to R42). -/
def readReg (r : Reg) (s : State) : Except Fault Word32 :=
  match r with
  | .cmd => .ok 0x00000000
  | .arg => .ok s.arg
  | .status => .ok s.status
  | .errcmd => .ok s.errcmd
  | .tseed => .ok s.tseed
  | .digest k => readDigest k s
  | .twinLo i => readWindow lo32 i s
  | .twinHi i => readWindow hi32 i s
  | .reserved => .ok 0x00000000

/-- Only a 32-bit access at a multiple of 4 inside the map is part of the interface (R62, R223, U5, R41). DESIGN
CHOICE (log 9), safe: the order of the three refusals. -/
def onReg (offset bytes : Nat) (k : Reg → Result) : Result :=
  if bytes ≠ 4 then .refused .accessWidth
  else if offset % 4 ≠ 0 then .refused .accessMisaligned
  else
    match regAt offset with
    | none => .refused .accessOutsideMap
    | some r => k r

/-- A host read has no side effect on the engine: it returns a value, or is a fault of the host program (R65, U2, U3). -/
def readAccess (r : Reg) (s : State) : Result :=
  match readReg r s with
  | .ok v => .next (s.reply v)
  | .error e => .fault e

/-- One access (R222). -/
def access (a : Access) (s : State) : Result :=
  match a with
  | .write offset bytes v => onReg offset bytes fun r => writeReg r v s
  | .read offset bytes => onReg offset bytes fun r => readAccess r s
  | .reset => .next s.platformReset

end Sys2Proof.Machine
end

