-- ==== Sys2Proof/Machine/Step.lean ====
section
/-! DEFINITION. One step: the host's oldest access still to be made, or, with none, an idle step (rules R63, R68, R219). -/

namespace Sys2Proof.Machine

/-- The engine acts only on a host access (R223). With none to make it is idle and holds its state (R219, log 3). -/
def step (s : State) : Host.Outcome State Fault Refusal :=
  match s.pending with
  | [] => .next s
  | a :: rest => access a (s.withPending rest)

/-- `s` with the host's next access a write of the command word to CMD (R40): the low `nbits` bits of `w`, every bit above
them 0. The accesses already waiting stay behind it (log 2). -/
def State.withFetchWord (s : State) (nbits w : Nat) : State :=
  s.withPending (.write (offsetOf .cmd) 4 (BitVec.ofNat 32 (w % 2 ^ nbits)) :: s.pending)

end Sys2Proof.Machine
end

