-- ==== Sys2Proof/Machine/Hash.lean ====
section
/-! DEFINITION. The whole hash as a function (rule R135), the conformance-fixture procedure (rule R196) and the rendering of
a digest (rule R197). None of this is a command: it is what the commands' results are compared with. -/

namespace Sys2Proof.Machine

/-- The units of the whole groups of 4 bytes of a message, in order (R129). -/
def wholeUnits (p : Config.Profile) : List Byte → List Word32
  | b0 :: b1 :: b2 :: b3 :: rest => p.pack b0 b1 b2 b3 :: wholeUnits p rest
  | _ => []

/-- The last L mod 4 bytes of a message, which stay pending (R129). -/
def tailBytes : List Byte → List Byte
  | _ :: _ :: _ :: _ :: rest => tailBytes rest
  | bs => bs

/-- U(m) (R135): the whole units, then the units of the final passes, for L mod 2^64. -/
def hashUnits (p : Config.Profile) (m : List Byte) : List Word32 :=
  wholeUnits p m ++ passUnits p (tailBytes m) (BitVec.ofNat 64 m.length)

/-- The hash of m on the table T0 (R135): its A gives the digest and its table is T1, the table left behind. -/
def hashOn (p : Config.Profile) (t0 : Memory) (m : List Byte) : Option MixState :=
  mixUnits p (hashUnits p m) { acc := 0, csum := 0, table := t0 }

/-- The digest of m on the table that RBINIT makes of a seed: HASH for seed 0 (R191), SHASH for a seed s (R193). -/
def seededDigest (p : Config.Profile) (seed : Word32) (m : List Byte) : Option Word256 :=
  (hashOn p (Memory.fill (p.gen seed)) m).map fun x => p.digestOf x.acc

/-- The digest as its interchange form, the bytes D[0..31] (R35). -/
def digestBytes (d : Word256) : List Byte := bytesLE d

/-! ### The conformance fixture (R196) -/

/-- The 80-byte message of the fixture procedure (R196). -/
abbrev FixtureMessage := Vector Byte 80

/-- `msg[j] <- msg[j] ^ it[7:0]` for every j (R196). -/
def countIn (it : Nat) (msg : FixtureMessage) : FixtureMessage := msg.map fun b => b ^^^ BitVec.ofNat 8 it

/-- `msg[0..31] <- d[0..31]` (R196). -/
def overwriteHead (d : Word256) (msg : FixtureMessage) : FixtureMessage :=
  Vector.ofFn fun j => if j.val < 32 then byteLE d j.val else msg[j]

/-- The rounds of the fixture procedure (R196) for the counters of a list: the digest of the last, or `d` where there is none.
HASH is the hash on a fresh table of seed 0 (R191). -/
def fixtureRounds (p : Config.Profile) : List Nat → FixtureMessage → Word256 → Option Word256
  | [], _, d => some d
  | it :: its, msg, _ =>
    (seededDigest p 0 (countIn it msg).toList).bind fun d =>
      fixtureRounds p its (overwriteHead d (countIn it msg)) d

/-- The fixture procedure (R196): 256 rounds on the 80-byte pattern, the digest of the last one. -/
def fixture (p : Config.Profile) (pattern : FixtureMessage) : Option Word256 :=
  fixtureRounds p (List.range 256) pattern 0

/-- The spec's own pattern, m[j] = j (V-FIX-1). -/
def specPattern : FixtureMessage := Vector.ofFn fun j => BitVec.ofNat 8 j.val

/-- A lowercase hexadecimal digit (R197). -/
def hexDigit (n : Nat) : Char := "0123456789abcdef".toList.getD n '0'

/-- The rendering of a digest (R197): D[0] first, high nibble first, 64 lowercase digits. -/
def renderDigest (d : Word256) : String :=
  String.ofList ((digestBytes d).flatMap fun b => [hexDigit (b.toNat / 16), hexDigit (b.toNat % 16)])

end Sys2Proof.Machine
end

