-- ==== Sys2Proof/Machine/Platform.lean ====
section
/-! DEFINITION. A platform of several engines, each at its own ENGINE_BASE: the product of single engines (rules R66, R221).
ENGINE_BASE and ENGINE_COUNT are OPEN (U11): here the bases and the number of engines of a given platform. -/

namespace Sys2Proof.Machine

/-- An engine at its base address (R66). -/
structure Placed where
  base : Nat
  engine : State
  deriving DecidableEq, Repr

/-- The engines of a platform. ENGINE_COUNT is the length (R221). -/
abbrev Platform := List Placed

/-- An access by one of the host agents at a host-bus address. -/
inductive BusAccess where
  | write (addr bytes : Nat) (v : Word32)
  | read (addr bytes : Nat)
  deriving DecidableEq, Repr

/-- The bus address of an access. -/
def BusAccess.addr : BusAccess → Nat
  | .write addr _ _ => addr
  | .read addr _ => addr

/-- The same access, at its offset from a base (R12). -/
def BusAccess.toOffset (base : Nat) : BusAccess → Access
  | .write addr bytes v => .write (addr - base) bytes v
  | .read addr bytes => .read (addr - base) bytes

/-- The engine decodes offsets 0x0000 to 0x7FFF from its base (R41). -/
def Placed.decodes (e : Placed) (addr : Nat) : Bool := decide (e.base ≤ addr ∧ addr < e.base + Config.windowBytes)

/-- Hands an access to the engine whose map holds its address, at the end of what that engine's host still has to send. An
address of no engine belongs to the platform (R41) and leaves every engine alone. Where two maps overlap the first engine
takes the access (log 12). -/
def Platform.post (a : BusAccess) : Platform → Platform
  | [] => []
  | e :: rest =>
    if e.decodes a.addr then
      { e with engine := e.engine.withPending (e.engine.pending ++ [a.toOffset e.base]) } :: rest
    else e :: Platform.post a rest

/-- The reset event of one engine (R222, R230), which falls after the first `made` of the accesses its host still has to
send: "Reset can happen at any time". -/
def Placed.queueReset (made : Nat) (e : Placed) : Placed :=
  { e with engine := e.engine.withPending (e.engine.pending.take made ++ .reset :: e.engine.pending.drop made) }

/-- Asserts the reset input of engine number `k` alone. DESIGN CHOICE (log 19), safe: R230 speaks of one engine, and the spec
does not say whether a platform resets its engines singly or together, so the model has both, and the caller names where in
the engine's accesses the reset falls. -/
def Platform.resetEngine (k made : Nat) (p : Platform) : Platform := p.modify k (Placed.queueReset made)

/-- Asserts the reset of the whole platform: every engine's, in engine k after the first `made k` of its accesses. DESIGN CHOICE
(log 19), safe: that one event may reach every engine is the model's, as is that each engine takes it in its own order. -/
def Platform.postReset (made : Nat → Nat) (p : Platform) : Platform := p.mapIdx fun k e => e.queueReset (made k)

/-- One step of engine number `k` (R221: the host's steps interleave freely, so any `k` may step next). DESIGN CHOICE (log 20),
safe: R221 does not say what a stop at one engine (a fault of its host's program, a refused access) is for the platform. Here
that stop is the answer of this platform step; the other engines of `p` can still be stepped. A number of no engine leaves the
platform as it is. -/
def Platform.stepEngine (k : Nat) (p : Platform) : Host.Outcome Platform Fault Refusal :=
  match p[k]? with
  | none => .next p
  | some e =>
    match step e.engine with
    | .next s => .next (p.set k { e with engine := s })
    | .fault r => .fault r
    | .refused r => .refused r

end Sys2Proof.Machine
end

