-- ==== Sys2Proof/Machine/HostProgram.lean ====
section
/-! DEFINITION. The host's side: assembler lines, pseudo-instructions and the one-shot pseudo-commands as the bus accesses
they expand to (rules R87, R88, R190 to R194), the run of a list of accesses, and the fixture procedure (rule R196). -/

namespace Sys2Proof.Machine

/-- The bus access that issues a command (R87). -/
def issue (i : Instr) : Access := .write (offsetOf .cmd) 4 (encode i)

/-- The bus access that sets ARG (R87). -/
def writeArg (v : Word32) : Access := .write (offsetOf .arg) 4 v

/-- The bus access that reads a register (R87). -/
def readOf (r : Reg) : Access := .read (offsetOf r) 4

/-- The `upd` expansion (R88): groups of 4 bytes from the start, the last group holding 1 to 4, each an `arg` with zeros above
and an `update`. -/
def updAccesses : List Byte → List Access
  | b0 :: b1 :: b2 :: b3 :: rest => writeArg (le32 b0 b1 b2 b3) :: issue (.update 3) :: updAccesses rest
  | [b0, b1, b2] => [writeArg (le32 b0 b1 b2 0), issue (.update 2)]
  | [b0, b1] => [writeArg (le32 b0 b1 0 0), issue (.update 1)]
  | [b0] => [writeArg (le32 b0 0 0 0), issue (.update 0)]
  | [] => []

/-- `rdigest` (R88): DIGEST0 to DIGEST7. -/
def rdigestAccesses : List Access := (List.range 8).map fun k => readOf (.digest (BitVec.ofNat 3 k))

/-- HASH.EXT m (R192): the hash on the table as it stands. -/
def hashExtAccesses (m : List Byte) : List Access :=
  [issue .init] ++ updAccesses m ++ [issue .final] ++ rdigestAccesses

/-- SHASH m, s (R193): a fresh table from the seed, then the hash. -/
def shashAccesses (m : List Byte) (s : Word32) : List Access :=
  [writeArg s, issue .rbinit] ++ hashExtAccesses m

/-- HASH m (R191): SHASH with seed 0. -/
def hashAccesses (m : List Byte) : List Access := shashAccesses m 0

/-- SHASH.EXT m, s (R194): the same accesses as HASH.EXT; the seed names the table's lineage and is checked by the host. -/
def shashExtAccesses (m : List Byte) (_s : Word32) : List Access := hashExtAccesses m

/-- Any grouping of message bytes into UPDATE commands (R88, R123): each element is an ARG value and the NBM1 of the UPDATE
that takes its low bytes. -/
def groupAccesses : List (BitVec 2 × Word32) → List Access
  | [] => []
  | (nbm1, v) :: rest => writeArg v :: issue (.update nbm1) :: groupAccesses rest

/-- The message bytes a grouping carries, in order (R124, R128). -/
def groupBytes (gs : List (BitVec 2 × Word32)) : List Byte := gs.flatMap fun g => argBytes g.1 g.2

/-- A line of a host program (R87, R88), as a term and not a text (DESIGN CHOICE, log 18, safe). -/
inductive HostLine where
  /-- `arg <v32>`. -/
  | arg (v : Word32)
  /-- `rbinit`. -/
  | rbinit
  /-- `rbinit <s32>`. -/
  | rbinitSeed (s : Word32)
  /-- `init`. -/
  | init
  /-- `update <n>`. -/
  | update (n : Nat)
  /-- `update <n>, <v32>`. -/
  | updateArg (n : Nat) (v : Word32)
  /-- `final`. -/
  | final
  /-- `rd <reg>`. -/
  | rd (r : Reg)
  /-- `cmd <w32>`. -/
  | cmd (w : Word32)
  /-- `upd "<bytes>"` or `upd.hex <hexbytes>`. -/
  | upd (m : List Byte)
  /-- `hash "<bytes>"` (R191). -/
  | hash (m : List Byte)
  /-- `hash.ext "<bytes>"` (R192). -/
  | hashExt (m : List Byte)
  /-- `shash "<bytes>", <s32>` (R193). -/
  | shash (m : List Byte) (s : Word32)
  /-- `shash.ext "<bytes>", <s32>` (R194). -/
  | shashExt (m : List Byte) (s : Word32)
  /-- `rdigest`. -/
  | rdigest
  deriving DecidableEq, Repr

/-- The registers `rd` may name (R87). -/
def Reg.readable : Reg → Bool
  | .status | .errcmd | .tseed | .digest _ | .twinLo _ | .twinHi _ => true
  | .cmd | .arg | .reserved => false

/-- What the assembler refuses (R87): an `update` of any n but 1 to 4, and `rd` of a register the list leaves out. -/
def HostLine.wellFormed : HostLine → Bool
  | .update n | .updateArg n _ => decide (1 ≤ n ∧ n ≤ 4)
  | .rd r => r.readable
  | .arg _ | .rbinit | .rbinitSeed _ | .init | .final | .cmd _ | .upd _ | .hash _ | .hashExt _ | .shash _ _
  | .shashExt _ _ | .rdigest => true

/-- The bus accesses of a well-formed line (R87, R88). -/
def HostLine.accesses : HostLine → List Access
  | .arg v => [writeArg v]
  | .rbinit => [issue .rbinit]
  | .rbinitSeed s => [writeArg s, issue .rbinit]
  | .init => [issue .init]
  | .update n => [issue (.update (BitVec.ofNat 2 (n - 1)))]
  | .updateArg n v => [writeArg v, issue (.update (BitVec.ofNat 2 (n - 1)))]
  | .final => [issue .final]
  | .rd r => [readOf r]
  | .cmd w => [.write (offsetOf .cmd) 4 w]
  | .upd m => updAccesses m
  | .hash m => hashAccesses m
  | .hashExt m => hashExtAccesses m
  | .shash m s => shashAccesses m s
  | .shashExt m s => shashExtAccesses m s
  | .rdigest => rdigestAccesses

/-- The accesses of a host program, or none where the assembler refuses a line (R87). -/
def assemble : List HostLine → Option (List Access)
  | [] => some []
  | l :: ls => if l.wellFormed then (assemble ls).map (l.accesses ++ ·) else none

/-- The accesses of a list made one after the other (R68), up to the first that stops the model. -/
def runAccesses : List Access → State → Result
  | [], s => .next s
  | a :: rest, s =>
    match access a s with
    | .next t => runAccesses rest t
    | .fault r => .fault r
    | .refused r => .refused r

/-- The digest whose host words, DIGEST0 first, are the first eight of a list (R35). -/
def digestOfWords (ws : List Word32) : Word256 :=
  ws.getD 7 0 ++ ws.getD 6 0 ++ ws.getD 5 0 ++ ws.getD 4 0 ++ ws.getD 3 0 ++ ws.getD 2 0 ++ ws.getD 1 0 ++ ws.getD 0 0

/-- The rounds of the fixture procedure as the host runs them on the engine (R196): HASH of the message, and the digest its
reads returned written over the head of the message. -/
def runFixtureRounds : List Nat → FixtureMessage → State → Result
  | [], _, s => .next s
  | it :: its, msg, s =>
    match runAccesses (hashAccesses (countIn it msg).toList) s with
    | .next t =>
      runFixtureRounds its (overwriteHead (digestOfWords (t.replies.drop s.replies.length)) (countIn it msg)) t
    | .fault r => .fault r
    | .refused r => .refused r

/-- The fixture procedure on the engine (R196). The result is the digest that the last HASH left. -/
def runFixture (pattern : FixtureMessage) (s : State) : Result := runFixtureRounds (List.range 256) pattern s

end Sys2Proof.Machine
end

