-- ==== Sys2Proof/Safety.lean ====
section
/-! DEFINITION. What the claims call a sound state and a good run (rules R44, R226, R233). -/

namespace Sys2Proof.Machine

/-- The invariant of R44, with what R23, R29, R36, R37, R38 and R233 say of the status bits between any two steps. -/
structure State.Inv (s : State) : Prop where
  /-- The table keeps its canonical form, and every index lies in 0..2047 (R31, R44 item 2). -/
  tableWf : s.table.wf
  /-- TVALID = 1 implies that every T[i] holds a value (R44 item 5). -/
  tableFull : s.tvalid = true → s.table.full
  /-- With TVALID = 0 nothing has written T since reset (R33, R42). -/
  tableEmpty : s.tvalid = false → s.table = []
  /-- ERRCODE is 0 exactly while ERR = 0 (R37, R200). -/
  errcodeNone : s.errcode = .none ↔ s.err = false
  /-- ERRCMD is 0 while ERR = 0 (R38). -/
  errcmdZero : s.err = false → s.errcmd = 0
  /-- DVALID = 1 only after a FINAL (R36). -/
  digestWritten : s.dvalid = true → s.finalDone = true
  /-- A FINAL completes only with TVALID = 1, which nothing clears but reset (R33, R130). -/
  finalOnTable : s.finalDone = true → s.tvalid = true
  /-- No INIT has run since the FINAL that DVALID reports, so no context is active (R23, R36). -/
  closedWhenValid : s.dvalid = true → s.ctx = false
  /-- PCOUNT is 0 outside a context (R23, R130). -/
  idlePcount : s.ctx = false → s.pcount = 0
  /-- In a context PCOUNT is LEN modulo 4 (R127, R129). -/
  pcountOfLen : s.ctx = true → s.pcount = s.len.extractLsb' 0 2
  /-- "LEN = 0 is guaranteed: with TVALID = 0 no UPDATE can have succeeded" (R233). -/
  lenWithoutTable : s.ctx = true → s.tvalid = false → s.len = 0

/-- A run is good when ERR = 0 at its end (R226). -/
def State.good (s : State) : Prop := s.err = false

/-- Nothing is in flight: the host has made every access it had to make (R226). -/
def State.quiet (s : State) : Prop := s.pending = []

/-- UPDATE and FINAL execute normally (R124, R130): no fault, an active context, an initialized table. `full` is what
TVALID = 1 implies between any two steps (R44 item 5). -/
structure State.Ready (s : State) : Prop where
  err : s.err = false
  ctx : s.ctx = true
  tvalid : s.tvalid = true
  full : s.table.full

/-- The life cycle of R233 over (ERR, TVALID, CTX), with LEN = 0 known where the table of R233 asks for it. -/
def lifeCycle (i : Instr) (err tvalid ctx lenZero : Bool) : Bool × Bool × Bool :=
  if err then (true, tvalid, ctx)
  else
    match i with
    | .rbinit => if ctx && tvalid && !lenZero then (true, tvalid, ctx) else (false, true, ctx)
    | .init => (false, tvalid, true)
    | .update _ => if ctx && tvalid then (false, tvalid, ctx) else (true, tvalid, ctx)
    | .final => if ctx && tvalid then (false, tvalid, false) else (true, tvalid, ctx)

/-- The fault that R233's table names for a command with ERR = 0, NONE where it names none. -/
def lifeCycleCode (i : Instr) (tvalid ctx lenZero : Bool) : ErrCode :=
  match i with
  | .rbinit => if ctx && tvalid && !lenZero then .rbinitMidhash else .none
  | .init => .none
  | .update _ | .final => if !ctx then .noContext else if !tvalid then .noTable else .none

/-- The units on which a command that runs calls Mix, in order (R124, R126, R132). -/
def unitsOf (i : Instr) (s : State) : List Word32 :=
  match i with
  | .rbinit | .init => []
  | .update nbm1 => wholeUnits rfsP0 (s.pendingBytes ++ argBytes nbm1 s.arg)
  | .final => passUnits rfsP0 s.pendingBytes s.len

/-- Iteration number n of Mix call number j on the units `us`, both counted from 0, where the calls start from `m`: the
CSUM it uses, and the index, A and T it starts with (R150, R153). None where there is no such call. -/
def iterationAt (us : List Word32) (m : MixState) (j n : Nat) : Option (Word32 × Walk) :=
  (us[j]?).bind fun u => (mixUnits rfsP0 (us.take j) m).bind fun mj =>
    (walk rfsP0 (rfsP0.crc mj.csum u) n (mixStart rfsP0 u mj)).map fun w => (rfsP0.crc mj.csum u, w)

/-- Two states agree in everything the spec gives a value (R23, R29, R45): in every register that holds one, in A, CSUM, LEN
and the pending bytes while a context is active, and in DIGEST once a FINAL has completed. Where they differ they hold
bits without meaning. -/
structure State.AgreeWhereDefined (s t : State) : Prop where
  table : s.table = t.table
  acc : s.ctx = true → s.acc = t.acc
  csum : s.ctx = true → s.csum = t.csum
  len : s.ctx = true → s.len = t.len
  pendingBytes : s.ctx = true → s.pendingBytes = t.pendingBytes
  pcount : s.pcount = t.pcount
  ctx : s.ctx = t.ctx
  tvalid : s.tvalid = t.tvalid
  tseed : s.tseed = t.tseed
  digest : s.finalDone = true → s.digest = t.digest
  dvalid : s.dvalid = t.dvalid
  err : s.err = t.err
  errcode : s.errcode = t.errcode
  errcmd : s.errcmd = t.errcmd
  arg : s.arg = t.arg
  finalDone : s.finalDone = t.finalDone
  pending : s.pending = t.pending
  replies : s.replies = t.replies

/-- Two answers agree: next states that agree where the spec gives a value, or the same stop. -/
def Result.agree : Result → Result → Prop
  | .next s, .next t => s.AgreeWhereDefined t
  | .fault e, .fault f => e = f
  | .refused e, .refused f => e = f
  | _, _ => False

/-- The registers of the engine: the state less the host's side of the bus, which the spec's rules do not speak of. -/
def State.engineOf (s : State) : State := { s with pending := [], replies := [] }

end Sys2Proof.Machine
end

