-- ==== Sys2Proof/Certificates/Slice0/Obligations.lean ====
section
/-! DEFINITION. The statements for the provers, each from the numbered rules of spec/ its docstring names. -/

open Sys2Proof Sys2Proof.Machine

/-! ### Encoding -/

/-- R80, R82, R83: decoding and encoding are each other's inverse, on every word and every command. -/
def Obligations.DecodeIffEncode : Prop :=
  ∀ (w : Word32) (i : Instr), decode w = .ok i ↔ encode i = w

/-- R83: legal(w), the decoder and the list of the seven legal words say the same of every word; while ERR = 0 an illegal word
raises ILLEGAL_CMD and has no other effect; while ERR = 1 every word is ignored. -/
def Obligations.LegalWordsAreTheSeven : Prop :=
  ∀ w : Word32,
    (legal w = true ↔
      w.extractLsb' 10 22 = 0 ∧
      (w.extractLsb' 0 8 = 0x01 ∨ w.extractLsb' 0 8 = 0x02 ∨ w.extractLsb' 0 8 = 0x03 ∨ w.extractLsb' 0 8 = 0x04) ∧
      (w.extractLsb' 0 8 = 0x03 ∨ w.extractLsb' 8 2 = 0)) ∧
    (legal w = true ↔
      w ∈ [(0x00000001 : Word32), 0x00000002, 0x00000003, 0x00000103, 0x00000203, 0x00000303, 0x00000004]) ∧
    (legal w = true ↔ ∃ i, decode w = .ok i) ∧
    ∀ (s : State) (rest : List Access), s.pending = .write 0x0000 4 w :: rest →
      (s.err = false → legal w = false →
        step s = .next { s with pending := rest, err := true, errcode := .illegalCmd, errcmd := w }) ∧
      (s.err = true → step s = .next { s with pending := rest })

/-- R82: the words of the four commands; exactly one row of the opcode map matches a legal word, that of its command, and none
an illegal word; the reserved opcodes are illegal, and so is a nonzero NBM1 but for UPDATE. -/
def Obligations.OneRowPerLegalWord : Prop :=
  encode .rbinit = 0x00000001 ∧ encode .init = 0x00000002 ∧
  (∀ nbm1, encode (.update nbm1) = 0x00000003 ||| nbm1.setWidth 32 <<< 8) ∧ encode .final = 0x00000004 ∧
  ∀ w : Word32,
    (∀ i, decode w = .ok i →
      ∃ r, opcodeMap.filter (fun r => r.selectedBy w) = [r] ∧ r.mnemonic = i.mnemonic) ∧
    (legal w = false → opcodeMap.filter (fun r => r.selectedBy w) = []) ∧
    (w.extractLsb' 0 8 = 0 ∨ 5 ≤ (w.extractLsb' 0 8).toNat → legal w = false) ∧
    (w.extractLsb' 0 8 ≠ 3 → w.extractLsb' 8 2 ≠ 0 → legal w = false)

/-- R89 and the words of R82, written out. -/
def Obligations.WorkedWordsDecode : Prop :=
  encode (.update 2) = 0x00000203 ∧ legal 0x00000203 = true ∧ decode 0x00000203 = .ok (.update 2) ∧
  decode 0x00000102 = .error .strayByteCount ∧ decode 0x00000400 = .error .reservedBits ∧
  decode 0x00000303 = .ok (.update 3) ∧ decode 0x80000004 = .error .reservedBits ∧
  decode 0x00000000 = .error .reservedOpcode ∧
  decode 0x00000001 = .ok .rbinit ∧ decode 0x00000002 = .ok .init ∧ decode 0x00000003 = .ok (.update 0) ∧
  decode 0x00000004 = .ok .final

/-! ### A step, and the commands while ERR = 1 -/

/-- R40, R63: where the host's next access writes a legal word to CMD, a step is exec of the command it encodes, on the
state less that access. -/
def Obligations.StepRunsDecodedCommand : Prop :=
  ∀ (s : State) (rest : List Access) (w : Word32) (i : Instr),
    s.pending = .write 0x0000 4 w :: rest → decode w = .ok i → step s = exec i { s with pending := rest }

/-- R83, R201, R202, R203: an illegal word raises ILLEGAL_CMD and has no other effect. -/
def Obligations.IllegalWordRaisesIllegalCmd : Prop :=
  ∀ (s : State) (rest : List Access) (w : Word32),
    s.pending = .write 0x0000 4 w :: rest → s.err = false → legal w = false →
    step s = .next { s with pending := rest, err := true, errcode := .illegalCmd, errcmd := w }

/-- R205: while ERR = 1 every write of CMD, legal or not, is ignored with no effect at all. -/
def Obligations.CommandsIgnoredWhileFaulted : Prop :=
  (∀ (s : State) (rest : List Access) (w : Word32),
    s.pending = .write 0x0000 4 w :: rest → s.err = true → step s = .next { s with pending := rest }) ∧
  ∀ (i : Instr) (s : State), s.err = true → exec i s = .next s

/-- R205, R44 item 3: while ERR = 1 no step but a reset changes a register of the engine, except a write of ARG. -/
def Obligations.OnlyArgChangesWhileFaulted : Prop :=
  ∀ (s t : State), s.err = true → s.pending.head? ≠ some .reset → step s = .next t →
    t = { s with arg := t.arg, pending := s.pending.tail, replies := t.replies } ∧
    (t.arg ≠ s.arg → ∃ v rest, s.pending = .write 0x0004 4 v :: rest ∧ t.arg = v)

/-- R219, R223: with no host access to make, the engine holds all its state. -/
def Obligations.IdleStepHoldsState : Prop :=
  ∀ s : State, s.pending = [] → step s = .next s

/-! ### Host accesses -/

/-- R39: the host writes ARG at any time, faulted or not, and reads back the value last written; no command changes ARG. -/
def Obligations.ArgWrittenByHostAlone : Prop :=
  (∀ (s : State) (rest : List Access) (v : Word32), s.pending = .write 0x0004 4 v :: rest →
    step s = .next { s with pending := rest, arg := v }) ∧
  (∀ (s : State) (rest : List Access), s.pending = .read 0x0004 4 :: rest →
    step s = .next { s with pending := rest, replies := s.replies ++ [s.arg] }) ∧
  ∀ (i : Instr) (s t : State), exec i s = .next t → t.arg = s.arg

/-- R37, R38, R41, R42: a write to any offset of the map but those of CMD and ARG is ignored. -/
def Obligations.WritesElsewhereIgnored : Prop :=
  ∀ (s : State) (rest : List Access) (off : Nat) (v : Word32),
    s.pending = .write off 4 v :: rest → off % 4 = 0 → off < 0x8000 → off ≠ 0x0000 → off ≠ 0x0004 →
    step s = .next { s with pending := rest }

/-- R41: the register map, offset by offset. -/
def Obligations.RegisterMapDecoding : Prop :=
  regAt 0x0000 = some .cmd ∧ regAt 0x0004 = some .arg ∧ regAt 0x0008 = some .status ∧ regAt 0x000C = some .errcmd ∧
  regAt 0x0010 = some .tseed ∧
  (∀ k : BitVec 3, regAt (0x0020 + 4 * k.toNat) = some (.digest k)) ∧
  (∀ i : Index, regAt (0x4000 + 8 * i.toNat) = some (.twinLo i)) ∧
  (∀ i : Index, regAt (0x4004 + 8 * i.toNat) = some (.twinHi i)) ∧
  (∀ off, off % 4 = 0 → (0x0014 ≤ off ∧ off ≤ 0x001F ∨ 0x0040 ≤ off ∧ off ≤ 0x3FFF) → regAt off = some .reserved) ∧
  ∀ off, regAt off = none ↔ 0x8000 ≤ off

/-- R37, R200: every field of STATUS, the reserved bits and the five codes. -/
def Obligations.StatusFields : Prop :=
  ∀ s : State,
    s.status.getLsbD 0 = s.ctx ∧ s.status.getLsbD 1 = s.tvalid ∧ s.status.getLsbD 2 = s.dvalid ∧
    s.status.getLsbD 3 = s.err ∧ s.status.extractLsb' 4 2 = s.pcount ∧ s.status.extractLsb' 6 2 = 0 ∧
    s.status.extractLsb' 12 20 = 0 ∧
    (s.errcode = .none → s.status.extractLsb' 8 4 = 0) ∧ (s.errcode = .illegalCmd → s.status.extractLsb' 8 4 = 1) ∧
    (s.errcode = .noContext → s.status.extractLsb' 8 4 = 2) ∧ (s.errcode = .noTable → s.status.extractLsb' 8 4 = 3) ∧
    (s.errcode = .rbinitMidhash → s.status.extractLsb' 8 4 = 4)

/-- R34, R37, R38, R40, R41: what a read of STATUS, ERRCMD, TSEED, CMD and of a reserved offset returns. -/
def Obligations.ReadsReturnRegisters : Prop :=
  ∀ (s : State) (rest : List Access) (off : Nat) (v : Word32), s.pending = .read off 4 :: rest → off % 4 = 0 →
    (off = 0x0000 ∧ v = 0 ∨ off = 0x0008 ∧ v = s.status ∨ off = 0x000C ∧ v = s.errcmd ∨ off = 0x0010 ∧ v = s.tseed ∨
      0x0014 ≤ off ∧ off ≤ 0x001F ∧ v = 0 ∨ 0x0040 ≤ off ∧ off ≤ 0x3FFF ∧ v = 0) →
    step s = .next { s with pending := rest, replies := s.replies ++ [v] }

/-- R35, R36: DIGESTk is LE32 of D[4k] to D[4k+3] once a FINAL has completed since reset. Before that the read is a fault of
the host program (U3, log 8). -/
def Obligations.DigestReads : Prop :=
  ∀ (s : State) (rest : List Access) (k : BitVec 3), s.pending = .read (0x0020 + 4 * k.toNat) 4 :: rest →
    (s.finalDone = true → step s = .next { s with
      pending := rest
      replies := s.replies ++ [le32 (byteLE s.digest (4 * k.toNat)) (byteLE s.digest (4 * k.toNat + 1))
        (byteLE s.digest (4 * k.toNat + 2)) (byteLE s.digest (4 * k.toNat + 3))] }) ∧
    (s.finalDone = false → step s = .fault .digestUnspecified)

/-- R41, R42, R61: the window reads the low half of T[i] at 0x4000 + 8i and the high half at 0x4004 + 8i. With TVALID = 0 the
read is a fault of the host program (U2, log 8). -/
def Obligations.WindowReads : Prop :=
  ∀ (s : State) (rest : List Access) (i : Index),
    (s.pending = .read (0x4000 + 8 * i.toNat) 4 :: rest →
      (∀ e, s.tvalid = true → s.table.read i.toNat = some e →
        step s = .next { s with pending := rest, replies := s.replies ++ [e.extractLsb' 0 32] }) ∧
      (s.tvalid = false → step s = .fault .windowUnspecified)) ∧
    (s.pending = .read (0x4004 + 8 * i.toNat) 4 :: rest →
      (∀ e, s.tvalid = true → s.table.read i.toNat = some e →
        step s = .next { s with pending := rest, replies := s.replies ++ [e.extractLsb' 32 32] }) ∧
      (s.tvalid = false → step s = .fault .windowUnspecified))

/-- R65: no read has a side effect on the engine, and two reads with nothing between them return the same value. -/
def Obligations.ReadsLeaveEngineAlone : Prop :=
  ∀ (s t : State) (off bytes : Nat) (rest : List Access), s.pending = .read off bytes :: rest → step s = .next t →
    ∃ v, t = { s with pending := rest, replies := s.replies ++ [v] } ∧
      ∀ rest', step { t with pending := .read off bytes :: rest' } =
        .next { t with pending := rest', replies := t.replies ++ [v] }

/-- R41, R62, R223: an access that is not 32 bits wide, not at a multiple of 4, or outside 0x0000 to 0x7FFF is refused. The
names of the refusals and their order are the model's (log 9). -/
def Obligations.AccessesOutsideInterfaceRefused : Prop :=
  ∀ (s : State) (rest : List Access) (off bytes : Nat) (v : Word32),
    s.pending = .write off bytes v :: rest ∨ s.pending = .read off bytes :: rest →
    (bytes ≠ 4 → step s = .refused .accessWidth) ∧
    (bytes = 4 → off % 4 ≠ 0 → step s = .refused .accessMisaligned) ∧
    (bytes = 4 → off % 4 = 0 → 0x8000 ≤ off → step s = .refused .accessOutsideMap)

/-- R23, R230: the values the spec gives for reset, whatever the registers it leaves unspecified hold, and the same after the
platform's reset event from any state. -/
def Obligations.ResetEventValues : Prop :=
  (∀ d : ResetDraw, (State.resetWith d).pcount = 0 ∧ (State.resetWith d).ctx = false ∧
    (State.resetWith d).tvalid = false ∧ (State.resetWith d).tseed = 0 ∧ (State.resetWith d).dvalid = false ∧
    (State.resetWith d).err = false ∧ (State.resetWith d).errcode = .none ∧ (State.resetWith d).errcmd = 0 ∧
    (State.resetWith d).arg = 0 ∧ (State.resetWith d).status = 0) ∧
  State.reset = State.resetWith ResetDraw.named ∧
  ∀ (s : State) (rest : List Access), s.pending = .reset :: rest →
    step s = .next { State.reset with pending := rest, replies := s.replies }

/-- R68: making the host's accesses one after the other is stepping until none is left. -/
def Obligations.StepsMakeAccessesInOrder : Prop :=
  ∀ (as : List Access) (s : State),
    Host.Core.run Sys2Proof.core as.length { s with pending := as } = runAccesses as { s with pending := [] }

/-! ### RBINIT and the table generator -/

/-- R101: RBINIT in the mid-hash case, and in every other with ERR = 0. -/
def Obligations.RbinitLoadsTable : Prop :=
  (∀ w : Word32, decode w = .ok .rbinit ↔ w = 0x00000001) ∧
  ∀ s : State, s.err = false →
    (s.ctx = true ∧ s.len ≠ 0 →
      exec .rbinit s = .next { s with err := true, errcode := .rbinitMidhash, errcmd := 0x00000001 }) ∧
    (¬(s.ctx = true ∧ s.len ≠ 0) →
      ∃ t, exec .rbinit s = .next t ∧ t = { s with table := t.table, tvalid := true, tseed := s.arg } ∧
        t.table.wf ∧ ∀ i : Index, t.table.read i.toNat = some (genP0 s.arg i))

/-- R103: RBINIT with seed s always produces the table GEN(s, 0..2047): it depends on nothing but the seed, neither on the
table before nor on the context. -/
def Obligations.RbinitDependsOnSeedAlone : Prop :=
  ∀ s s' : State, s.err = false → s'.err = false → s.ctx = false ∨ s.len = 0 → s'.ctx = false ∨ s'.len = 0 →
    s.arg = s'.arg →
    ∃ t t', exec .rbinit s = .next t ∧ exec .rbinit s' = .next t' ∧ t.table = t'.table ∧
      ∀ i : Index, t.table.read i.toNat = some (genP0 s.arg i)

/-- R64, R101: RBINIT's table is what 2048 writes of one entry each leave, T[0] to T[2047] in that order, on any table. -/
def Obligations.FillIsTheWriteLoop : Prop :=
  ∀ (f : Index → Word64) (m : Memory), m.wf →
    (List.range 2048).foldl (fun m i => m.write i (f (BitVec.ofNat 11 i))) m = Memory.fill f

/-- R102: GEN in its closed form, and the sequential form that adds GAMMA before each entry. -/
def Obligations.GenClosedAndSequential : Prop :=
  ∀ (seed : Word32) (i : Index),
    (∀ x z y : Word64, x = seed.setWidth 64 + (i.setWidth 64 + 1) * 0x9E3779B97F4A7C15 →
      z = (x ^^^ (x >>> 30)) * 0xBF58476D1CE4E5B9 → y = (z ^^^ (z >>> 27)) * 0x94D049BB133111EB →
      genP0 seed i = y ^^^ (y >>> 31)) ∧
    genP0 seed i = genFinalize ((fun x => x + 0x9E3779B97F4A7C15)^[i.toNat + 1] (seed.setWidth 64))

/-- R104: the entries the spec publishes of the default table. -/
def Obligations.DefaultTableEntries : Prop :=
  genP0 0 0 = 0xE220A8397B1DCDAF ∧ genP0 0 1 = 0x6E789E6AA1B965F4 ∧ genP0 0 2 = 0x06C45D188009454F ∧
  genP0 0 3 = 0xF88BB8A8724C81EC ∧ genP0 0 2047 = 0x28B3BF5520DDDF02

/-- R105: each step of GEN after the addition of GAMMA is a bijection; so two entries of any two tables are equal only where
the sums are, which is for the same seed and the same index; and the smallest distance of k GAMMA from 0 that shows it. -/
def Obligations.SeedSeparation : Prop :=
  ((∀ r, r = 30 ∨ r = 27 ∨ r = 31 → Function.Bijective fun x : Word64 => x ^^^ (x >>> r)) ∧
    Function.Bijective (fun x : Word64 => x * genC1) ∧ Function.Bijective (fun x : Word64 => x * genC2) ∧
    Function.Bijective genFinalize) ∧
  (∀ (s s' : Word32) (i j : Index), genP0 s i = genP0 s' j ↔
    s.setWidth 64 + (i.setWidth 64 + 1) * genGamma = s'.setWidth 64 + (j.setWidth 64 + 1) * genGamma) ∧
  (∀ (s s' : Word32) (i : Index), genP0 s i = genP0 s' i ↔ s = s') ∧
  (∀ (s s' : Word32) (i j : Index), genP0 s i = genP0 s' j → s = s' ∧ i = j) ∧
  (∀ k < 2048, 1 ≤ k → 5165707820535553 ≤ k * 0x9E3779B97F4A7C15 % 2 ^ 64 ∧
    k * 0x9E3779B97F4A7C15 % 2 ^ 64 ≤ 2 ^ 64 - 5165707820535553) ∧
  (1597 * 0x9E3779B97F4A7C15 % 2 ^ 64 = 5165707820535553 ∨
    1597 * 0x9E3779B97F4A7C15 % 2 ^ 64 = 2 ^ 64 - 5165707820535553)

/-! ### INIT -/

/-- R121: INIT, its word, that a second one changes nothing, and STATUS after it while ERRCODE is 0. -/
def Obligations.InitOpensContext : Prop :=
  (∀ w : Word32, decode w = .ok .init ↔ w = 0x00000002) ∧
  ∀ s : State, s.err = false →
    ∃ t, exec .init s = .next t ∧
      t = { s with acc := 0, csum := 0, pcount := 0, len := 0, ctx := true, dvalid := false } ∧
      exec .init t = .next t ∧
      (s.errcode = .none → t.status = if s.tvalid then 0x00000003 else 0x00000001)

/-! ### UPDATE -/

/-- R124, R126: an UPDATE whose bytes complete no unit stores them, counts them, and touches nothing else. -/
def Obligations.UpdateStoresWithoutMix : Prop :=
  ∀ (s : State) (nbm1 : BitVec 2), s.Ready → (s.pendingBytes ++ argBytes nbm1 s.arg).length ≤ 3 →
    ∃ t, exec (.update nbm1) s = .next t ∧
      t = { s with
        p0 := t.p0, p1 := t.p1, p2 := t.p2, pcount := t.pcount
        len := s.len + BitVec.ofNat 64 (nbm1.toNat + 1) } ∧
      t.pendingBytes = s.pendingBytes ++ argBytes nbm1 s.arg ∧ t.pcount.toNat = s.pcount.toNat + nbm1.toNat + 1

/-- R124, R125, R126: an UPDATE that completes a unit runs exactly one Mix, on LE32 of the first four bytes; the other bytes
start the next unit. -/
def Obligations.UpdateMixesOnce : Prop :=
  ∀ (s : State) (nbm1 : BitVec 2) (b0 b1 b2 b3 : Byte) (rest : List Byte), s.Ready →
    s.pendingBytes ++ argBytes nbm1 s.arg = b0 :: b1 :: b2 :: b3 :: rest →
    ∃ m t, mix rfsP0 (le32 b0 b1 b2 b3) { acc := s.acc, csum := s.csum, table := s.table } = some m ∧
      exec (.update nbm1) s = .next t ∧
      t = { s with
        table := m.table, acc := m.acc, csum := m.csum
        p0 := t.p0, p1 := t.p1, p2 := t.p2, pcount := t.pcount
        len := s.len + BitVec.ofNat 64 (nbm1.toNat + 1) } ∧
      t.pendingBytes = rest ∧ t.pcount.toNat + 4 = s.pcount.toNat + nbm1.toNat + 1

/-- R124, R130, R201, R207: UPDATE and FINAL report NO_CONTEXT before NO_TABLE, and a faulting one changes nothing but the
error state. -/
def Obligations.UpdateAndFinalChecks : Prop :=
  ∀ (i : Instr) (s : State), (∃ nbm1, i = .update nbm1) ∨ i = .final → s.err = false →
    (s.ctx = false → exec i s = .next { s with err := true, errcode := .noContext, errcmd := encode i }) ∧
    (s.ctx = true → s.tvalid = false →
      exec i s = .next { s with err := true, errcode := .noTable, errcmd := encode i })

/-- R84: UPDATE takes the low n = NBM1 + 1 bytes of ARG, low byte first; the bytes above the n-th are ignored; INIT and FINAL
do not read ARG. -/
def Obligations.CommandsReadTheirBytesOfArg : Prop :=
  (∀ (nbm1 : BitVec 2) (v : Word32),
    argBytes nbm1 v = (List.range (nbm1.toNat + 1)).map fun j => v.extractLsb' (8 * j) 8) ∧
  (∀ (nbm1 : BitVec 2) (v : Word32) (s t : State), exec (.update nbm1) s = .next t →
    v.toNat % 2 ^ (8 * (nbm1.toNat + 1)) = s.arg.toNat % 2 ^ (8 * (nbm1.toNat + 1)) →
    exec (.update nbm1) { s with arg := v } = .next { t with arg := v }) ∧
  ∀ (i : Instr) (v : Word32) (s t : State), i = .init ∨ i = .final → exec i s = .next t →
    exec i { s with arg := v } = .next { t with arg := v }

/-- R30, R127: each byte an UPDATE takes adds 1 to LEN modulo 2^64, and L bytes after INIT leave LEN = L mod 2^64. -/
def Obligations.LenCountsBytes : Prop :=
  (∀ (p : Config.Profile) (bs : List Byte) (s t : State), feed p bs s = some t →
    t.len = s.len + BitVec.ofNat 64 bs.length) ∧
  ∀ (gs : List (BitVec 2 × Word32)) (s t u : State), s.err = false → s.tvalid = true → s.table.full →
    exec .init s = .next t → runAccesses (groupAccesses gs) t = .next u →
    u.len.toNat = (groupBytes gs).length % 2 ^ 64

/-- R129: the bytes after INIT call Mix on the whole units in order, and leave L mod 4 of them pending. For every choice of
the open functions. -/
def Obligations.UnitSequence : Prop :=
  ∀ (p : Config.Profile) (bs : List Byte) (s t : State), s.pcount = 0 → feed p bs s = some t →
    mixUnits p (wholeUnits p bs) s.mixState = some t.mixState ∧ t.pendingBytes = tailBytes bs ∧
    t.pcount.toNat = bs.length % 4 ∧ (wholeUnits p bs).length = bs.length / 4

/-- R128: every grouping of the same bytes into ARG writes and UPDATE commands completes and leaves the same state, ARG apart;
FINAL then gives the same digest; and reads of STATUS and writes of ARG leave everything else as it was. -/
def Obligations.StreamingEquivalence : Prop :=
  (∀ (s : State) (gs gs' : List (BitVec 2 × Word32)), s.Ready → groupBytes gs = groupBytes gs' →
    ∃ t t' u u', runAccesses (groupAccesses gs) s = .next t ∧ runAccesses (groupAccesses gs') s = .next t' ∧
      t' = { t with arg := t'.arg } ∧ exec .final t = .next u ∧ exec .final t' = .next u' ∧
      u' = { u with arg := u'.arg }) ∧
  ∀ (as : List Access) (s : State), (∀ a ∈ as, a = readOf .status ∨ ∃ v, a = writeArg v) →
    ∃ v rs, runAccesses as s = .next { s with arg := v, replies := s.replies ++ rs }

/-! ### FINAL and the whole hash -/

/-- R130, R132, R133: FINAL mixes the padding unit, lo32(LEN) and hi32(LEN), and publishes A. -/
def Obligations.FinalPublishesDigest : Prop :=
  (∀ w : Word32, decode w = .ok .final ↔ w = 0x00000004) ∧
  ∀ s : State, s.Ready →
    ∃ m, mixUnits rfsP0 [padP0 s.pendingBytes, s.len.extractLsb' 0 32, s.len.extractLsb' 32 32]
        { acc := s.acc, csum := s.csum, table := s.table } = some m ∧
      exec .final s = .next { s with
        table := m.table, acc := m.acc, csum := m.csum
        digest := m.acc, ctx := false, dvalid := true, pcount := 0, finalDone := true }

/-- R131: the padding unit of 0 to 3 pending bytes; and two padding units are equal only for the same bytes. -/
def Obligations.PadUnit : Prop :=
  padP0 [] = 0x00000080 ∧
  (∀ b0 : Byte, padP0 [b0] = 0x00008000 ||| b0.setWidth 32) ∧
  (∀ b0 b1 : Byte, padP0 [b0, b1] = 0x00800000 ||| b1.setWidth 32 <<< 8 ||| b0.setWidth 32) ∧
  (∀ b0 b1 b2 : Byte,
    padP0 [b0, b1, b2] = 0x80000000 ||| b2.setWidth 32 <<< 16 ||| b1.setWidth 32 <<< 8 ||| b0.setWidth 32) ∧
  ∀ bs cs : List Byte, bs.length ≤ 3 → cs.length ≤ 3 → padP0 bs = padP0 cs → bs = cs

/-- R134: after FINAL, UPDATE and FINAL fault with NO_CONTEXT until INIT, and A, CSUM, LEN, P0 to P2 and T keep the bits FINAL
left. -/
def Obligations.ContextClosedAfterFinal : Prop :=
  ∀ s t : State, s.Ready → exec .final s = .next t →
    t.ctx = false ∧ t.err = false ∧
    (∀ nbm1, exec (.update nbm1) t =
      .next { t with err := true, errcode := .noContext, errcmd := encode (.update nbm1) }) ∧
    exec .final t = .next { t with err := true, errcode := .noContext, errcmd := 0x00000004 }

/-- R135: INIT, any grouping of a message into UPDATEs, then FINAL computes the hash of the message on the table: the digest,
and the table left behind. -/
def Obligations.HashOfAnyGrouping : Prop :=
  ∀ (s : State) (gs : List (BitVec 2 × Word32)), s.err = false → s.tvalid = true → s.table.full →
    ∃ t x, hashOn rfsP0 s.table (groupBytes gs) = some x ∧
      runAccesses ([issue .init] ++ groupAccesses gs ++ [issue .final]) s = .next t ∧
      t.digest = x.acc ∧ t.table = x.table ∧ t.err = false ∧ t.ctx = false ∧ t.dvalid = true ∧
      (hashUnits rfsP0 (groupBytes gs)).length = (groupBytes gs).length / 4 + 3

/-- R192, R194: HASH.EXT of any message on an initialized table replies the eight words of the digest on that table and leaves
T1; SHASH.EXT does the same whatever its seed and TSEED, and on the table RBINIT makes of a seed its digest is that of SHASH;
with TVALID = 0 both fault with NO_TABLE before the digest is read. -/
def Obligations.HashExtOnTheTable : Prop :=
  ∀ (s : State) (m : List Byte), s.err = false →
    (s.tvalid = true → s.table.full →
      ∃ t x, hashOn rfsP0 s.table m = some x ∧ runAccesses (hashExtAccesses m) s = .next t ∧
        t.replies = s.replies ++ (List.range 8).map (fun k => x.acc.extractLsb' (32 * k) 32) ∧
        t.digest = x.acc ∧ t.table = x.table ∧ t.tseed = s.tseed ∧ t.tvalid = true ∧ t.err = false ∧
        (∀ seed, runAccesses (shashExtAccesses m seed) s = .next t) ∧
        ∀ seed, s.table = Memory.fill (genP0 seed) → seededDigest rfsP0 seed m = some t.digest) ∧
    (s.tvalid = false →
      ∃ t, runAccesses ([issue .init] ++ updAccesses m ++ [issue .final]) s = .next t ∧
        t.err = true ∧ t.errcode = .noTable ∧ t.digest = s.digest)

/-- R191, R193: SHASH m, s (HASH m for the seed 0) replies the digest of m on the table of the seed, whatever the engine did
before, as long as no hash is half done; where one is, RBINIT faults and no digest is made. -/
def Obligations.SeededHash : Prop :=
  (∀ m, hashAccesses m = shashAccesses m 0) ∧
  ∀ (s : State) (m : List Byte) (seed : Word32), s.err = false →
    (s.ctx = false ∨ s.len = 0 →
      ∃ t d, seededDigest rfsP0 seed m = some d ∧ runAccesses (shashAccesses m seed) s = .next t ∧
        t.digest = d ∧ t.replies = s.replies ++ (List.range 8).map (fun k => d.extractLsb' (32 * k) 32) ∧
        t.tvalid = true ∧ t.tseed = seed ∧ t.ctx = false ∧ t.dvalid = true ∧ t.err = false) ∧
    (s.ctx = true → s.len ≠ 0 →
      ∃ t, runAccesses ([writeArg seed, issue .rbinit, issue .init] ++ updAccesses m ++ [issue .final]) s = .next t ∧
        t = { s with err := true, errcode := .rbinitMidhash, errcmd := 0x00000001, arg := t.arg })

/-- R196: the fixture procedure run on the engine through HASH, round by round, ends with the digest that the procedure on the
hash function gives, and it always ends. -/
def Obligations.FixtureOnTheEngine : Prop :=
  ∀ (pattern : FixtureMessage) (s : State), s.err = false → s.ctx = false ∨ s.len = 0 →
    ∃ t d, fixture rfsP0 pattern = some d ∧ runFixture pattern s = .next t ∧ t.digest = d ∧
      t.replies.length = s.replies.length + 8 * 256 ∧ t.err = false ∧ t.dvalid = true ∧ t.tseed = 0

/-- R88: the `upd` expansion is one of the groupings, and it carries the message. -/
def Obligations.UpdCarriesTheMessage : Prop :=
  ∀ m : List Byte, ∃ gs, updAccesses m = groupAccesses gs ∧ groupBytes gs = m

/-! ### The round mixer -/

/-- R150, R151, R152, R158: Mix(u) on a full table is the CRC step and four dependent read-modify-write iterations, the last
index discarded. -/
def Obligations.MixIsFourIterations : Prop :=
  ∀ (u : Word32) (m : MixState), m.table.full →
    ∃ (c : Word32) (i0 i1 i2 i3 : Index) (e0 e1 e2 e3 : Word64) (a1 a2 a3 a4 : Word256) (t1 t2 t3 t4 : Memory),
      c = crc32w m.csum u ∧ i0 = c.extractLsb' 0 11 ∧
      m.table.read i0.toNat = some e0 ∧ a1 = gP0 aesenc m.acc e0 c ∧ t1 = m.table.write i0.toNat (fP0 e0 a1 c) ∧
      i1 = hP0 a1 c ∧ t1.read i1.toNat = some e1 ∧ a2 = gP0 aesenc a1 e1 c ∧ t2 = t1.write i1.toNat (fP0 e1 a2 c) ∧
      i2 = hP0 a2 c ∧ t2.read i2.toNat = some e2 ∧ a3 = gP0 aesenc a2 e2 c ∧ t3 = t2.write i2.toNat (fP0 e2 a3 c) ∧
      i3 = hP0 a3 c ∧ t3.read i3.toNat = some e3 ∧ a4 = gP0 aesenc a3 e3 c ∧ t4 = t3.write i3.toNat (fP0 e3 a4 c) ∧
      mix rfsP0 u m = some { acc := a4, csum := c, table := t4 }

/-- R64, R155: Mix writes no entry but those at the indices of its iterations, so at most RAMBOX_LOOPS of them. For every
choice of the open functions. -/
def Obligations.MixWritesVisitedEntriesOnly : Prop :=
  ∀ (p : Config.Profile) (u : Word32) (m m' : MixState), mix p u m = some m' →
    (∀ i : Nat,
      (∀ k < p.loops, ∀ w, walk p (p.crc m.csum u) k (mixStart p u m) = some w → w.idx.toNat ≠ i) →
      m'.table.read i = m.table.read i) ∧
    ((List.range 2048).filter fun i => m'.table.read i ≠ m.table.read i).length ≤ p.loops

/-- R42, R167: what a command makes of each entry of T. A command that faults or is ignored, and INIT, write none; RBINIT writes
GEN of the seed; UPDATE and FINAL leave an entry that no iteration of their Mix calls selects as it was, and leave in any other
the F value of the last iteration that selected it. And no step but a CMD write of RBINIT, UPDATE or FINAL, or a reset, changes
T. -/
def Obligations.TableContainment : Prop :=
  (∀ (i : Instr) (s t : State), exec i s = .next t →
    (t.err = true ∨ i = .init → t.table = s.table) ∧
    (t.err = false → i = .rbinit → ∀ k < 2048, t.table.read k = some (genP0 s.arg (BitVec.ofNat 11 k))) ∧
    (t.err = false → i = .rbinit → ∀ k, 2048 ≤ k → t.table.read k = none) ∧
    (t.err = false → i ≠ .rbinit → ∀ k : Nat,
      (∀ j n c w, n < 4 → iterationAt (unitsOf i s) s.mixState j n = some (c, w) → w.idx.toNat ≠ k) →
      t.table.read k = s.table.read k) ∧
    (t.err = false → i ≠ .rbinit → ∀ (k j n : Nat) (c : Word32) (w : Walk),
      n < 4 → iterationAt (unitsOf i s) s.mixState j n = some (c, w) → w.idx.toNat = k →
      (∀ j' n' c' w', n' < 4 → j < j' ∨ j = j' ∧ n < n' →
        iterationAt (unitsOf i s) s.mixState j' n' = some (c', w') → w'.idx.toNat ≠ k) →
      ∃ e, w.table.read k = some e ∧ t.table.read k = some (fP0 e (gP0 aesenc w.acc e c) c))) ∧
  ∀ s t : State, step s = .next t → t.table ≠ s.table →
    s.pending.head? = some .reset ∨
    ∃ (w : Word32) (rest : List Access) (i : Instr),
      s.pending = .write 0x0000 4 w :: rest ∧ decode w = .ok i ∧ i ≠ .init

/-- R160: the laws of the CRC step. -/
def Obligations.CrcLaws : Prop :=
  crc32w 0 0 = 0 ∧ (∀ c, crc32w c c = 0) ∧ (∀ c u, crc32w c u = crc32w (c ^^^ u) 0) ∧
  (∀ c u c' u', crc32w (c ^^^ c') (u ^^^ u') = crc32w c u ^^^ crc32w c' u') ∧
  ∀ c, Function.Bijective (crc32w c)

/-- R160: the CRC step is the update by the 4 bytes of the unit, least significant byte first. -/
def Obligations.CrcIsBytewise : Prop :=
  ∀ c u : Word32, crc32w c u = (bytesLE u).foldl crc32b c

/-- R162: SubBytes replaces every byte by its SBOX value; SBOX[a] is the affine map of the inverse of a in GF(2^8), with 0
mapped to 0; and the entries the spec checks it against. -/
def Obligations.SboxIsInverseThenAffine : Prop :=
  (∀ (s : Block), ∀ j < 16, byteLE (subBytes s) j = sbox (byteLE s j)) ∧
  (∀ a : Byte, ∃ b : Byte, (a = 0 ∧ b = 0 ∨ gfMul a b = 1) ∧ sbox a = sboxAffine b) ∧
  sbox 0x00 = 0x63 ∧ sbox 0x01 = 0x7C ∧ sbox 0x53 = 0xED ∧ sbox 0xFF = 0x16

/-- R163, R164, R165: ShiftRows row by row, MixColumns column by column, the key entering by exclusive or last; the column and
the round vector the spec gives. -/
def Obligations.AesRound : Prop :=
  (∀ (s : Block), ∀ r < 4, ∀ c < 4, byteLE (shiftRows s) (r + 4 * c) = byteLE s (r + 4 * ((c + r) % 4))) ∧
  (∀ (t : Block), ∀ c < 4,
    byteLE (mixColumns t) (4 * c) = xtime (byteLE t (4 * c)) ^^^ mul3 (byteLE t (4 * c + 1)) ^^^
      byteLE t (4 * c + 2) ^^^ byteLE t (4 * c + 3) ∧
    byteLE (mixColumns t) (4 * c + 1) = byteLE t (4 * c) ^^^ xtime (byteLE t (4 * c + 1)) ^^^
      mul3 (byteLE t (4 * c + 2)) ^^^ byteLE t (4 * c + 3) ∧
    byteLE (mixColumns t) (4 * c + 2) = byteLE t (4 * c) ^^^ byteLE t (4 * c + 1) ^^^
      xtime (byteLE t (4 * c + 2)) ^^^ mul3 (byteLE t (4 * c + 3)) ∧
    byteLE (mixColumns t) (4 * c + 3) = mul3 (byteLE t (4 * c)) ^^^ byteLE t (4 * c + 1) ^^^
      byteLE t (4 * c + 2) ^^^ xtime (byteLE t (4 * c + 3))) ∧
  (∀ a : Byte, xtime a = (a <<< 1) ^^^ (if a.getLsbD 7 then 0x1B else 0x00) ∧ mul3 a = xtime a ^^^ a) ∧
  (∀ a : Byte, xtime a = gfMul a 2 ∧ mul3 a = gfMul a 3) ∧
  (∀ s k : Block, ∀ j < 16,
    byteLE (aesenc s k) j = byteLE (mixColumns (shiftRows (subBytes s))) j ^^^ byteLE k j) ∧
  mixColumnByte 0xDB 0x13 0x53 0x45 0 = 0x8E ∧ mixColumnByte 0xDB 0x13 0x53 0x45 1 = 0x4D ∧
  mixColumnByte 0xDB 0x13 0x53 0x45 2 = 0xA1 ∧ mixColumnByte 0xDB 0x13 0x53 0x45 3 = 0xBC ∧
  aesenc 0x0848F8E92A8DC69A2BE2F4A0BEE33D19 0x05766C2A3939A323B12C548817FEFAA0 = 0x49506A0243EA5B6B2B359F68F27F9CA4

/-- R154, R155, R156: the lanes of the combine, the write-back and the next index, over every choice of the AES round; a
rotation by 0 is the identity. -/
def Obligations.CombineWriteBackIndex : Prop :=
  (∀ (round : Block → Block → Block) (a : Word256) (e : Word64) (c : Word32) (o : Block),
    o = round (rotl64 (accQ a 1 ^^^ e) (c.toNat % 64) ++ (accQ a 0 + e)) (accQ a 3 ++ accQ a 2) →
    accQ (gP0 round a e c) 0 = o.extractLsb' 0 64 ∧ accQ (gP0 round a e c) 1 = o.extractLsb' 64 64 ∧
    accQ (gP0 round a e c) 2 = accQ a 2 + (o.extractLsb' 0 64 ^^^ e) ∧
    accQ (gP0 round a e c) 3 = rotl64 (accQ a 3 ^^^ o.extractLsb' 64 64) 23) ∧
  (∀ (e : Word64) (a : Word256) (c : Word32),
    fP0 e a c = rotl64 (e ^^^ accQ a 3) 11 + (accQ a 0 ^^^ c.setWidth 64)) ∧
  (∀ (a : Word256) (c : Word32),
    (hP0 a c).toNat = (accD a 2 ^^^ c).toNat % 2048 ∧ accD a 2 = lo32 (accQ a 1)) ∧
  (∀ x, rotl64 x 0 = x) ∧ ∀ (x : Word64), ∀ r < 64, rotl64 x r = x.rotateLeft r

/-- R27: the lane views are little-endian readings of the same 32 bytes, and a write of a lane of any width is seen by the
byte view in the bytes the lane covers and in no other. -/
def Obligations.LaneViewsAgree : Prop :=
  ∀ a : Word256,
    (∀ k < 16, accW a k = le16 (accB a (2 * k)) (accB a (2 * k + 1))) ∧
    (∀ k < 8, accD a k = le32 (accB a (4 * k)) (accB a (4 * k + 1)) (accB a (4 * k + 2)) (accB a (4 * k + 3))) ∧
    (∀ k < 4, accQ a k = le64 (accB a (8 * k)) (accB a (8 * k + 1)) (accB a (8 * k + 2)) (accB a (8 * k + 3))
      (accB a (8 * k + 4)) (accB a (8 * k + 5)) (accB a (8 * k + 6)) (accB a (8 * k + 7))) ∧
    (∀ k < 4, accD a (2 * k) = lo32 (accQ a k) ∧ accD a (2 * k + 1) = hi32 (accQ a k)) ∧
    ∀ n, n = 1 ∨ n = 2 ∨ n = 4 ∨ n = 8 → ∀ k < 32 / n, ∀ v : BitVec (8 * n), ∀ j < 32,
      accB (setLane (8 * n) a k v) j = if j / n = k then byteLE v (j % n) else accB a j

/-- R169: Mix on the unit of "abcd", from A = 0 and CSUM = 0 on the default table: CSUM, the indices visited, the entry
iteration 0 reads, the one it writes, and the end state. -/
def Obligations.WorkedMix : Prop :=
  (genP0 0 525 = 0x45A577F1BAB58960 ∧
    (mixStart rfsP0 0x64636261 { acc := 0, csum := 0, table := Memory.fill (genP0 0) }).idx = 525) ∧
  (∀ n i, (n, i) ∈ [(1, (514 : Index)), (2, 306), (3, 429)] →
    (walk rfsP0 0xCCC6120D n
      (mixStart rfsP0 0x64636261 { acc := 0, csum := 0, table := Memory.fill (genP0 0) })).map Walk.idx = some i) ∧
  ∃ m, mix rfsP0 0x64636261 { acc := 0, csum := 0, table := Memory.fill (genP0 0) } = some m ∧
    m.csum = 0xCCC6120D ∧ m.table.read 525 = some 0xD8E911311565DF60 ∧
    m.acc = ofQ 0x1763DEE43C9A7A97 0x6F5F94D6320E3CAF 0x07A7A2B2D6B5981D 0x113F284CC81676DF

/-! ### The whole machine -/

/-- R44, with R23, R29, R37, R38 and R233: every step keeps the invariant, from every state that meets it. -/
def Obligations.InvariantKept : Prop :=
  ∀ s t : State, s.Inv → step s = .next t → t.Inv

/-- R23, R44, R230: reset meets the invariant, whatever the registers it leaves unspecified hold. -/
def Obligations.ResetMeetsInvariant : Prop :=
  (∀ d : ResetDraw, (State.resetWith d).Inv) ∧ State.reset.Inv

/-- R45, R159, R204: in a state that meets the invariant a step stops only at a host read the spec gives no value, or at a
host access outside the interface; every command completes. -/
def Obligations.OnlyHostAccessesStopARun : Prop :=
  ∀ s : State, s.Inv →
    (∀ i, ∃ t, exec i s = .next t) ∧
    (∀ e, step s = .fault e →
      (e = .digestUnspecified ∧ s.finalDone = false ∧
        ∃ (k : BitVec 3) (rest : List Access), s.pending = .read (0x0020 + 4 * k.toNat) 4 :: rest) ∨
      (e = .windowUnspecified ∧ s.tvalid = false ∧
        ∃ (off : Nat) (rest : List Access), 0x4000 ≤ off ∧ off < 0x8000 ∧ s.pending = .read off 4 :: rest)) ∧
    ∀ r, step s = .refused r → ∃ (off bytes : Nat) (v : Word32) (rest : List Access),
      (s.pending = .write off bytes v :: rest ∨ s.pending = .read off bytes :: rest) ∧
      ¬(bytes = 4 ∧ off % 4 = 0 ∧ off < 0x8000)

/-- R201, R203, R204: what a CMD write with ERR = 0 faults with, and exactly when, for every word; and a fault changes ERR,
ERRCODE and ERRCMD alone. -/
def Obligations.FaultsArePrecise : Prop :=
  ∀ (s t : State) (rest : List Access) (w : Word32),
    s.pending = .write 0x0000 4 w :: rest → s.err = false → step s = .next t →
    (t.err = true → t = { s with pending := rest, err := true, errcode := t.errcode, errcmd := w }) ∧
    (t.err = true ∧ t.errcode = .illegalCmd ↔ legal w = false) ∧
    (t.err = true ∧ t.errcode = .rbinitMidhash ↔ decode w = .ok .rbinit ∧ s.ctx = true ∧ s.len ≠ 0) ∧
    (t.err = true ∧ t.errcode = .noContext ↔
      ((∃ nbm1, decode w = .ok (.update nbm1)) ∨ decode w = .ok .final) ∧ s.ctx = false) ∧
    (t.err = true ∧ t.errcode = .noTable ↔
      ((∃ nbm1, decode w = .ok (.update nbm1)) ∨ decode w = .ok .final) ∧ s.ctx = true ∧ s.tvalid = false) ∧
    ¬(t.err = true ∧ t.errcode = .none)

/-- R233: the life cycle over (ERR, TVALID, CTX), with the fault each entry names, for every command and for an illegal word,
and reset to (0, 0, 0). In (0, 0, 1) an RBINIT never faults. -/
def Obligations.LifeCycle : Prop :=
  ∀ s : State, s.Inv →
    (∀ i, ∃ t, exec i s = .next t ∧
      (t.err, t.tvalid, t.ctx) = lifeCycle i s.err s.tvalid s.ctx (s.len == 0) ∧
      (s.err = false → t.errcode = lifeCycleCode i s.tvalid s.ctx (s.len == 0)) ∧ (s.err = true → t = s)) ∧
    (∀ rest w, s.pending = .write 0x0000 4 w :: rest → s.err = false → legal w = false →
      ∃ t, step s = .next t ∧ (t.err, t.tvalid, t.ctx) = (true, s.tvalid, s.ctx) ∧ t.errcode = .illegalCmd) ∧
    ∀ rest, s.pending = .reset :: rest → ∃ t, step s = .next t ∧ (t.err, t.tvalid, t.ctx) = (false, false, false)

/-- R23, R29, R45: no step makes anything the spec gives a value depend on bits it leaves unspecified. Two states that agree
where the spec gives a value answer alike, and any two draws of the reset contents agree so. -/
def Obligations.UnspecifiedBitsNeverSeen : Prop :=
  (∀ s t : State, s.AgreeWhereDefined t → Result.agree (step s) (step t)) ∧
  ∀ d d' : ResetDraw, (State.resetWith d).AgreeWhereDefined (State.resetWith d')

/-- R21, R34, R36, R39, R101, R121, R124, R130, R203: what each command leaves unchanged. -/
def Obligations.CommandFrames : Prop :=
  ∀ (i : Instr) (s t : State), exec i s = .next t →
    t.arg = s.arg ∧ t.pending = s.pending ∧ t.replies = s.replies ∧
    (t.err = s.err → t.errcode = s.errcode ∧ t.errcmd = s.errcmd) ∧
    (i ≠ .rbinit → t.tvalid = s.tvalid ∧ t.tseed = s.tseed) ∧
    (i ≠ .final → t.digest = s.digest ∧ t.finalDone = s.finalDone) ∧
    (i ≠ .final → i ≠ .init → t.dvalid = s.dvalid ∧ t.ctx = s.ctx) ∧
    ((∀ nbm1, i ≠ .update nbm1) → t.p0 = s.p0 ∧ t.p1 = s.p1 ∧ t.p2 = s.p2) ∧
    ((∀ nbm1, i ≠ .update nbm1) → i ≠ .init → t.len = s.len) ∧
    (i = .rbinit → t.acc = s.acc ∧ t.csum = s.csum ∧ t.pcount = s.pcount) ∧
    (i = .init → t.table = s.table)

/-- R221: a step of one engine of a platform is that engine's own step, and leaves every other engine as it was. -/
def Obligations.EnginesIndependent : Prop :=
  ∀ (p q : Platform) (k : Nat), p.stepEngine k = .next q →
    q.length = p.length ∧ (∀ j, j ≠ k → q[j]? = p[j]?) ∧
    ∀ e, p[k]? = some e → ∃ s, step e.engine = .next s ∧ q[k]? = some { e with engine := s }
end

