-- ==== Sys2Proof/Laws/State.lean ====
section
/-! SUPPORT. What each named update of the state leaves in each field, one lemma per field per update, true by rfl. -/

namespace Sys2Proof.Machine

/-! The host's oldest access taken off touches `pending` alone. -/

@[simp] theorem State.withPending_table (s : State) (rest : List Access) : (s.withPending rest).table = s.table := rfl
@[simp] theorem State.withPending_acc (s : State) (rest : List Access) : (s.withPending rest).acc = s.acc := rfl
@[simp] theorem State.withPending_csum (s : State) (rest : List Access) : (s.withPending rest).csum = s.csum := rfl
@[simp] theorem State.withPending_p0 (s : State) (rest : List Access) : (s.withPending rest).p0 = s.p0 := rfl
@[simp] theorem State.withPending_p1 (s : State) (rest : List Access) : (s.withPending rest).p1 = s.p1 := rfl
@[simp] theorem State.withPending_p2 (s : State) (rest : List Access) : (s.withPending rest).p2 = s.p2 := rfl
@[simp] theorem State.withPending_pcount (s : State) (rest : List Access) : (s.withPending rest).pcount = s.pcount := rfl
@[simp] theorem State.withPending_len (s : State) (rest : List Access) : (s.withPending rest).len = s.len := rfl
@[simp] theorem State.withPending_ctx (s : State) (rest : List Access) : (s.withPending rest).ctx = s.ctx := rfl
@[simp] theorem State.withPending_tvalid (s : State) (rest : List Access) : (s.withPending rest).tvalid = s.tvalid := rfl
@[simp] theorem State.withPending_tseed (s : State) (rest : List Access) : (s.withPending rest).tseed = s.tseed := rfl
@[simp] theorem State.withPending_digest (s : State) (rest : List Access) : (s.withPending rest).digest = s.digest := rfl
@[simp] theorem State.withPending_dvalid (s : State) (rest : List Access) : (s.withPending rest).dvalid = s.dvalid := rfl
@[simp] theorem State.withPending_err (s : State) (rest : List Access) : (s.withPending rest).err = s.err := rfl
@[simp] theorem State.withPending_errcode (s : State) (rest : List Access) : (s.withPending rest).errcode = s.errcode := rfl
@[simp] theorem State.withPending_errcmd (s : State) (rest : List Access) : (s.withPending rest).errcmd = s.errcmd := rfl
@[simp] theorem State.withPending_arg (s : State) (rest : List Access) : (s.withPending rest).arg = s.arg := rfl
@[simp] theorem State.withPending_finalDone (s : State) (rest : List Access) : (s.withPending rest).finalDone = s.finalDone := rfl
@[simp] theorem State.withPending_pending (s : State) (rest : List Access) : (s.withPending rest).pending = rest := rfl
@[simp] theorem State.withPending_replies (s : State) (rest : List Access) : (s.withPending rest).replies = s.replies := rfl

/-! A reply touches `replies` alone (R65). -/

@[simp] theorem State.reply_table (s : State) (v : Word32) : (s.reply v).table = s.table := rfl
@[simp] theorem State.reply_acc (s : State) (v : Word32) : (s.reply v).acc = s.acc := rfl
@[simp] theorem State.reply_csum (s : State) (v : Word32) : (s.reply v).csum = s.csum := rfl
@[simp] theorem State.reply_p0 (s : State) (v : Word32) : (s.reply v).p0 = s.p0 := rfl
@[simp] theorem State.reply_p1 (s : State) (v : Word32) : (s.reply v).p1 = s.p1 := rfl
@[simp] theorem State.reply_p2 (s : State) (v : Word32) : (s.reply v).p2 = s.p2 := rfl
@[simp] theorem State.reply_pcount (s : State) (v : Word32) : (s.reply v).pcount = s.pcount := rfl
@[simp] theorem State.reply_len (s : State) (v : Word32) : (s.reply v).len = s.len := rfl
@[simp] theorem State.reply_ctx (s : State) (v : Word32) : (s.reply v).ctx = s.ctx := rfl
@[simp] theorem State.reply_tvalid (s : State) (v : Word32) : (s.reply v).tvalid = s.tvalid := rfl
@[simp] theorem State.reply_tseed (s : State) (v : Word32) : (s.reply v).tseed = s.tseed := rfl
@[simp] theorem State.reply_digest (s : State) (v : Word32) : (s.reply v).digest = s.digest := rfl
@[simp] theorem State.reply_dvalid (s : State) (v : Word32) : (s.reply v).dvalid = s.dvalid := rfl
@[simp] theorem State.reply_err (s : State) (v : Word32) : (s.reply v).err = s.err := rfl
@[simp] theorem State.reply_errcode (s : State) (v : Word32) : (s.reply v).errcode = s.errcode := rfl
@[simp] theorem State.reply_errcmd (s : State) (v : Word32) : (s.reply v).errcmd = s.errcmd := rfl
@[simp] theorem State.reply_arg (s : State) (v : Word32) : (s.reply v).arg = s.arg := rfl
@[simp] theorem State.reply_finalDone (s : State) (v : Word32) : (s.reply v).finalDone = s.finalDone := rfl
@[simp] theorem State.reply_pending (s : State) (v : Word32) : (s.reply v).pending = s.pending := rfl
@[simp] theorem State.reply_replies (s : State) (v : Word32) : (s.reply v).replies = s.replies ++ [v] := rfl

/-! A write of ARG touches ARG alone (R39). -/

@[simp] theorem State.setArg_table (s : State) (v : Word32) : (s.setArg v).table = s.table := rfl
@[simp] theorem State.setArg_acc (s : State) (v : Word32) : (s.setArg v).acc = s.acc := rfl
@[simp] theorem State.setArg_csum (s : State) (v : Word32) : (s.setArg v).csum = s.csum := rfl
@[simp] theorem State.setArg_p0 (s : State) (v : Word32) : (s.setArg v).p0 = s.p0 := rfl
@[simp] theorem State.setArg_p1 (s : State) (v : Word32) : (s.setArg v).p1 = s.p1 := rfl
@[simp] theorem State.setArg_p2 (s : State) (v : Word32) : (s.setArg v).p2 = s.p2 := rfl
@[simp] theorem State.setArg_pcount (s : State) (v : Word32) : (s.setArg v).pcount = s.pcount := rfl
@[simp] theorem State.setArg_len (s : State) (v : Word32) : (s.setArg v).len = s.len := rfl
@[simp] theorem State.setArg_ctx (s : State) (v : Word32) : (s.setArg v).ctx = s.ctx := rfl
@[simp] theorem State.setArg_tvalid (s : State) (v : Word32) : (s.setArg v).tvalid = s.tvalid := rfl
@[simp] theorem State.setArg_tseed (s : State) (v : Word32) : (s.setArg v).tseed = s.tseed := rfl
@[simp] theorem State.setArg_digest (s : State) (v : Word32) : (s.setArg v).digest = s.digest := rfl
@[simp] theorem State.setArg_dvalid (s : State) (v : Word32) : (s.setArg v).dvalid = s.dvalid := rfl
@[simp] theorem State.setArg_err (s : State) (v : Word32) : (s.setArg v).err = s.err := rfl
@[simp] theorem State.setArg_errcode (s : State) (v : Word32) : (s.setArg v).errcode = s.errcode := rfl
@[simp] theorem State.setArg_errcmd (s : State) (v : Word32) : (s.setArg v).errcmd = s.errcmd := rfl
@[simp] theorem State.setArg_arg (s : State) (v : Word32) : (s.setArg v).arg = v := rfl
@[simp] theorem State.setArg_finalDone (s : State) (v : Word32) : (s.setArg v).finalDone = s.finalDone := rfl
@[simp] theorem State.setArg_pending (s : State) (v : Word32) : (s.setArg v).pending = s.pending := rfl
@[simp] theorem State.setArg_replies (s : State) (v : Word32) : (s.setArg v).replies = s.replies := rfl

/-! RBINIT writes T, TVALID and TSEED alone (R101). -/

@[simp] theorem State.loadTable_table (s : State) (t : Memory) (seed : Word32) : (s.loadTable t seed).table = t := rfl
@[simp] theorem State.loadTable_acc (s : State) (t : Memory) (seed : Word32) : (s.loadTable t seed).acc = s.acc := rfl
@[simp] theorem State.loadTable_csum (s : State) (t : Memory) (seed : Word32) : (s.loadTable t seed).csum = s.csum := rfl
@[simp] theorem State.loadTable_p0 (s : State) (t : Memory) (seed : Word32) : (s.loadTable t seed).p0 = s.p0 := rfl
@[simp] theorem State.loadTable_p1 (s : State) (t : Memory) (seed : Word32) : (s.loadTable t seed).p1 = s.p1 := rfl
@[simp] theorem State.loadTable_p2 (s : State) (t : Memory) (seed : Word32) : (s.loadTable t seed).p2 = s.p2 := rfl
@[simp] theorem State.loadTable_pcount (s : State) (t : Memory) (seed : Word32) : (s.loadTable t seed).pcount = s.pcount := rfl
@[simp] theorem State.loadTable_len (s : State) (t : Memory) (seed : Word32) : (s.loadTable t seed).len = s.len := rfl
@[simp] theorem State.loadTable_ctx (s : State) (t : Memory) (seed : Word32) : (s.loadTable t seed).ctx = s.ctx := rfl
@[simp] theorem State.loadTable_tvalid (s : State) (t : Memory) (seed : Word32) : (s.loadTable t seed).tvalid = true := rfl
@[simp] theorem State.loadTable_tseed (s : State) (t : Memory) (seed : Word32) : (s.loadTable t seed).tseed = seed := rfl
@[simp] theorem State.loadTable_digest (s : State) (t : Memory) (seed : Word32) : (s.loadTable t seed).digest = s.digest := rfl
@[simp] theorem State.loadTable_dvalid (s : State) (t : Memory) (seed : Word32) : (s.loadTable t seed).dvalid = s.dvalid := rfl
@[simp] theorem State.loadTable_err (s : State) (t : Memory) (seed : Word32) : (s.loadTable t seed).err = s.err := rfl
@[simp] theorem State.loadTable_errcode (s : State) (t : Memory) (seed : Word32) : (s.loadTable t seed).errcode = s.errcode := rfl
@[simp] theorem State.loadTable_errcmd (s : State) (t : Memory) (seed : Word32) : (s.loadTable t seed).errcmd = s.errcmd := rfl
@[simp] theorem State.loadTable_arg (s : State) (t : Memory) (seed : Word32) : (s.loadTable t seed).arg = s.arg := rfl
@[simp] theorem State.loadTable_finalDone (s : State) (t : Memory) (seed : Word32) : (s.loadTable t seed).finalDone = s.finalDone := rfl
@[simp] theorem State.loadTable_pending (s : State) (t : Memory) (seed : Word32) : (s.loadTable t seed).pending = s.pending := rfl
@[simp] theorem State.loadTable_replies (s : State) (t : Memory) (seed : Word32) : (s.loadTable t seed).replies = s.replies := rfl

/-! INIT writes A, CSUM, PCOUNT, LEN, CTX and DVALID alone (R121). -/

@[simp] theorem State.openContext_table (s : State) : (s.openContext).table = s.table := rfl
@[simp] theorem State.openContext_acc (s : State) : (s.openContext).acc = 0 := rfl
@[simp] theorem State.openContext_csum (s : State) : (s.openContext).csum = 0 := rfl
@[simp] theorem State.openContext_p0 (s : State) : (s.openContext).p0 = s.p0 := rfl
@[simp] theorem State.openContext_p1 (s : State) : (s.openContext).p1 = s.p1 := rfl
@[simp] theorem State.openContext_p2 (s : State) : (s.openContext).p2 = s.p2 := rfl
@[simp] theorem State.openContext_pcount (s : State) : (s.openContext).pcount = 0 := rfl
@[simp] theorem State.openContext_len (s : State) : (s.openContext).len = 0 := rfl
@[simp] theorem State.openContext_ctx (s : State) : (s.openContext).ctx = true := rfl
@[simp] theorem State.openContext_tvalid (s : State) : (s.openContext).tvalid = s.tvalid := rfl
@[simp] theorem State.openContext_tseed (s : State) : (s.openContext).tseed = s.tseed := rfl
@[simp] theorem State.openContext_digest (s : State) : (s.openContext).digest = s.digest := rfl
@[simp] theorem State.openContext_dvalid (s : State) : (s.openContext).dvalid = false := rfl
@[simp] theorem State.openContext_err (s : State) : (s.openContext).err = s.err := rfl
@[simp] theorem State.openContext_errcode (s : State) : (s.openContext).errcode = s.errcode := rfl
@[simp] theorem State.openContext_errcmd (s : State) : (s.openContext).errcmd = s.errcmd := rfl
@[simp] theorem State.openContext_arg (s : State) : (s.openContext).arg = s.arg := rfl
@[simp] theorem State.openContext_finalDone (s : State) : (s.openContext).finalDone = s.finalDone := rfl
@[simp] theorem State.openContext_pending (s : State) : (s.openContext).pending = s.pending := rfl
@[simp] theorem State.openContext_replies (s : State) : (s.openContext).replies = s.replies := rfl

/-! Counting a byte touches LEN alone (R126). -/

@[simp] theorem State.countByte_table (s : State) : (s.countByte).table = s.table := rfl
@[simp] theorem State.countByte_acc (s : State) : (s.countByte).acc = s.acc := rfl
@[simp] theorem State.countByte_csum (s : State) : (s.countByte).csum = s.csum := rfl
@[simp] theorem State.countByte_p0 (s : State) : (s.countByte).p0 = s.p0 := rfl
@[simp] theorem State.countByte_p1 (s : State) : (s.countByte).p1 = s.p1 := rfl
@[simp] theorem State.countByte_p2 (s : State) : (s.countByte).p2 = s.p2 := rfl
@[simp] theorem State.countByte_pcount (s : State) : (s.countByte).pcount = s.pcount := rfl
@[simp] theorem State.countByte_len (s : State) : (s.countByte).len = s.len + 1 := rfl
@[simp] theorem State.countByte_ctx (s : State) : (s.countByte).ctx = s.ctx := rfl
@[simp] theorem State.countByte_tvalid (s : State) : (s.countByte).tvalid = s.tvalid := rfl
@[simp] theorem State.countByte_tseed (s : State) : (s.countByte).tseed = s.tseed := rfl
@[simp] theorem State.countByte_digest (s : State) : (s.countByte).digest = s.digest := rfl
@[simp] theorem State.countByte_dvalid (s : State) : (s.countByte).dvalid = s.dvalid := rfl
@[simp] theorem State.countByte_err (s : State) : (s.countByte).err = s.err := rfl
@[simp] theorem State.countByte_errcode (s : State) : (s.countByte).errcode = s.errcode := rfl
@[simp] theorem State.countByte_errcmd (s : State) : (s.countByte).errcmd = s.errcmd := rfl
@[simp] theorem State.countByte_arg (s : State) : (s.countByte).arg = s.arg := rfl
@[simp] theorem State.countByte_finalDone (s : State) : (s.countByte).finalDone = s.finalDone := rfl
@[simp] theorem State.countByte_pending (s : State) : (s.countByte).pending = s.pending := rfl
@[simp] theorem State.countByte_replies (s : State) : (s.countByte).replies = s.replies := rfl

/-! Storing a pending byte touches P0 to P2 alone (R126). -/

@[simp] theorem State.storePending_table (s : State) (k : BitVec 2) (b : Byte) : (s.storePending k b).table = s.table := rfl
@[simp] theorem State.storePending_acc (s : State) (k : BitVec 2) (b : Byte) : (s.storePending k b).acc = s.acc := rfl
@[simp] theorem State.storePending_csum (s : State) (k : BitVec 2) (b : Byte) : (s.storePending k b).csum = s.csum := rfl
@[simp] theorem State.storePending_p0 (s : State) (k : BitVec 2) (b : Byte) : (s.storePending k b).p0 = if k = 0 then b else s.p0 := rfl
@[simp] theorem State.storePending_p1 (s : State) (k : BitVec 2) (b : Byte) : (s.storePending k b).p1 = if k = 1 then b else s.p1 := rfl
@[simp] theorem State.storePending_p2 (s : State) (k : BitVec 2) (b : Byte) : (s.storePending k b).p2 = if k = 2 then b else s.p2 := rfl
@[simp] theorem State.storePending_pcount (s : State) (k : BitVec 2) (b : Byte) : (s.storePending k b).pcount = s.pcount := rfl
@[simp] theorem State.storePending_len (s : State) (k : BitVec 2) (b : Byte) : (s.storePending k b).len = s.len := rfl
@[simp] theorem State.storePending_ctx (s : State) (k : BitVec 2) (b : Byte) : (s.storePending k b).ctx = s.ctx := rfl
@[simp] theorem State.storePending_tvalid (s : State) (k : BitVec 2) (b : Byte) : (s.storePending k b).tvalid = s.tvalid := rfl
@[simp] theorem State.storePending_tseed (s : State) (k : BitVec 2) (b : Byte) : (s.storePending k b).tseed = s.tseed := rfl
@[simp] theorem State.storePending_digest (s : State) (k : BitVec 2) (b : Byte) : (s.storePending k b).digest = s.digest := rfl
@[simp] theorem State.storePending_dvalid (s : State) (k : BitVec 2) (b : Byte) : (s.storePending k b).dvalid = s.dvalid := rfl
@[simp] theorem State.storePending_err (s : State) (k : BitVec 2) (b : Byte) : (s.storePending k b).err = s.err := rfl
@[simp] theorem State.storePending_errcode (s : State) (k : BitVec 2) (b : Byte) : (s.storePending k b).errcode = s.errcode := rfl
@[simp] theorem State.storePending_errcmd (s : State) (k : BitVec 2) (b : Byte) : (s.storePending k b).errcmd = s.errcmd := rfl
@[simp] theorem State.storePending_arg (s : State) (k : BitVec 2) (b : Byte) : (s.storePending k b).arg = s.arg := rfl
@[simp] theorem State.storePending_finalDone (s : State) (k : BitVec 2) (b : Byte) : (s.storePending k b).finalDone = s.finalDone := rfl
@[simp] theorem State.storePending_pending (s : State) (k : BitVec 2) (b : Byte) : (s.storePending k b).pending = s.pending := rfl
@[simp] theorem State.storePending_replies (s : State) (k : BitVec 2) (b : Byte) : (s.storePending k b).replies = s.replies := rfl

/-! Setting PCOUNT touches PCOUNT alone. -/

@[simp] theorem State.setPcount_table (s : State) (k : BitVec 2) : (s.setPcount k).table = s.table := rfl
@[simp] theorem State.setPcount_acc (s : State) (k : BitVec 2) : (s.setPcount k).acc = s.acc := rfl
@[simp] theorem State.setPcount_csum (s : State) (k : BitVec 2) : (s.setPcount k).csum = s.csum := rfl
@[simp] theorem State.setPcount_p0 (s : State) (k : BitVec 2) : (s.setPcount k).p0 = s.p0 := rfl
@[simp] theorem State.setPcount_p1 (s : State) (k : BitVec 2) : (s.setPcount k).p1 = s.p1 := rfl
@[simp] theorem State.setPcount_p2 (s : State) (k : BitVec 2) : (s.setPcount k).p2 = s.p2 := rfl
@[simp] theorem State.setPcount_pcount (s : State) (k : BitVec 2) : (s.setPcount k).pcount = k := rfl
@[simp] theorem State.setPcount_len (s : State) (k : BitVec 2) : (s.setPcount k).len = s.len := rfl
@[simp] theorem State.setPcount_ctx (s : State) (k : BitVec 2) : (s.setPcount k).ctx = s.ctx := rfl
@[simp] theorem State.setPcount_tvalid (s : State) (k : BitVec 2) : (s.setPcount k).tvalid = s.tvalid := rfl
@[simp] theorem State.setPcount_tseed (s : State) (k : BitVec 2) : (s.setPcount k).tseed = s.tseed := rfl
@[simp] theorem State.setPcount_digest (s : State) (k : BitVec 2) : (s.setPcount k).digest = s.digest := rfl
@[simp] theorem State.setPcount_dvalid (s : State) (k : BitVec 2) : (s.setPcount k).dvalid = s.dvalid := rfl
@[simp] theorem State.setPcount_err (s : State) (k : BitVec 2) : (s.setPcount k).err = s.err := rfl
@[simp] theorem State.setPcount_errcode (s : State) (k : BitVec 2) : (s.setPcount k).errcode = s.errcode := rfl
@[simp] theorem State.setPcount_errcmd (s : State) (k : BitVec 2) : (s.setPcount k).errcmd = s.errcmd := rfl
@[simp] theorem State.setPcount_arg (s : State) (k : BitVec 2) : (s.setPcount k).arg = s.arg := rfl
@[simp] theorem State.setPcount_finalDone (s : State) (k : BitVec 2) : (s.setPcount k).finalDone = s.finalDone := rfl
@[simp] theorem State.setPcount_pending (s : State) (k : BitVec 2) : (s.setPcount k).pending = s.pending := rfl
@[simp] theorem State.setPcount_replies (s : State) (k : BitVec 2) : (s.setPcount k).replies = s.replies := rfl

/-! The end of Mix writes A, CSUM and T alone (R158, R159). -/

@[simp] theorem State.putMix_table (s : State) (m : MixState) : (s.putMix m).table = m.table := rfl
@[simp] theorem State.putMix_acc (s : State) (m : MixState) : (s.putMix m).acc = m.acc := rfl
@[simp] theorem State.putMix_csum (s : State) (m : MixState) : (s.putMix m).csum = m.csum := rfl
@[simp] theorem State.putMix_p0 (s : State) (m : MixState) : (s.putMix m).p0 = s.p0 := rfl
@[simp] theorem State.putMix_p1 (s : State) (m : MixState) : (s.putMix m).p1 = s.p1 := rfl
@[simp] theorem State.putMix_p2 (s : State) (m : MixState) : (s.putMix m).p2 = s.p2 := rfl
@[simp] theorem State.putMix_pcount (s : State) (m : MixState) : (s.putMix m).pcount = s.pcount := rfl
@[simp] theorem State.putMix_len (s : State) (m : MixState) : (s.putMix m).len = s.len := rfl
@[simp] theorem State.putMix_ctx (s : State) (m : MixState) : (s.putMix m).ctx = s.ctx := rfl
@[simp] theorem State.putMix_tvalid (s : State) (m : MixState) : (s.putMix m).tvalid = s.tvalid := rfl
@[simp] theorem State.putMix_tseed (s : State) (m : MixState) : (s.putMix m).tseed = s.tseed := rfl
@[simp] theorem State.putMix_digest (s : State) (m : MixState) : (s.putMix m).digest = s.digest := rfl
@[simp] theorem State.putMix_dvalid (s : State) (m : MixState) : (s.putMix m).dvalid = s.dvalid := rfl
@[simp] theorem State.putMix_err (s : State) (m : MixState) : (s.putMix m).err = s.err := rfl
@[simp] theorem State.putMix_errcode (s : State) (m : MixState) : (s.putMix m).errcode = s.errcode := rfl
@[simp] theorem State.putMix_errcmd (s : State) (m : MixState) : (s.putMix m).errcmd = s.errcmd := rfl
@[simp] theorem State.putMix_arg (s : State) (m : MixState) : (s.putMix m).arg = s.arg := rfl
@[simp] theorem State.putMix_finalDone (s : State) (m : MixState) : (s.putMix m).finalDone = s.finalDone := rfl
@[simp] theorem State.putMix_pending (s : State) (m : MixState) : (s.putMix m).pending = s.pending := rfl
@[simp] theorem State.putMix_replies (s : State) (m : MixState) : (s.putMix m).replies = s.replies := rfl

/-! The end of FINAL writes DIGEST, CTX, DVALID and PCOUNT alone, besides the model's own mark (R130). -/

@[simp] theorem State.publish_table (d : Word256) (s : State) : (s.publish d).table = s.table := rfl
@[simp] theorem State.publish_acc (d : Word256) (s : State) : (s.publish d).acc = s.acc := rfl
@[simp] theorem State.publish_csum (d : Word256) (s : State) : (s.publish d).csum = s.csum := rfl
@[simp] theorem State.publish_p0 (d : Word256) (s : State) : (s.publish d).p0 = s.p0 := rfl
@[simp] theorem State.publish_p1 (d : Word256) (s : State) : (s.publish d).p1 = s.p1 := rfl
@[simp] theorem State.publish_p2 (d : Word256) (s : State) : (s.publish d).p2 = s.p2 := rfl
@[simp] theorem State.publish_pcount (d : Word256) (s : State) : (s.publish d).pcount = 0 := rfl
@[simp] theorem State.publish_len (d : Word256) (s : State) : (s.publish d).len = s.len := rfl
@[simp] theorem State.publish_ctx (d : Word256) (s : State) : (s.publish d).ctx = false := rfl
@[simp] theorem State.publish_tvalid (d : Word256) (s : State) : (s.publish d).tvalid = s.tvalid := rfl
@[simp] theorem State.publish_tseed (d : Word256) (s : State) : (s.publish d).tseed = s.tseed := rfl
@[simp] theorem State.publish_digest (d : Word256) (s : State) : (s.publish d).digest = d := rfl
@[simp] theorem State.publish_dvalid (d : Word256) (s : State) : (s.publish d).dvalid = true := rfl
@[simp] theorem State.publish_err (d : Word256) (s : State) : (s.publish d).err = s.err := rfl
@[simp] theorem State.publish_errcode (d : Word256) (s : State) : (s.publish d).errcode = s.errcode := rfl
@[simp] theorem State.publish_errcmd (d : Word256) (s : State) : (s.publish d).errcmd = s.errcmd := rfl
@[simp] theorem State.publish_arg (d : Word256) (s : State) : (s.publish d).arg = s.arg := rfl
@[simp] theorem State.publish_finalDone (d : Word256) (s : State) : (s.publish d).finalDone = true := rfl
@[simp] theorem State.publish_pending (d : Word256) (s : State) : (s.publish d).pending = s.pending := rfl
@[simp] theorem State.publish_replies (d : Word256) (s : State) : (s.publish d).replies = s.replies := rfl

/-! The error entry writes ERR, ERRCODE and ERRCMD alone (R203). -/

@[simp] theorem State.raise_table (s : State) (code : ErrCode) (w : Word32) : (s.raise code w).table = s.table := rfl
@[simp] theorem State.raise_acc (s : State) (code : ErrCode) (w : Word32) : (s.raise code w).acc = s.acc := rfl
@[simp] theorem State.raise_csum (s : State) (code : ErrCode) (w : Word32) : (s.raise code w).csum = s.csum := rfl
@[simp] theorem State.raise_p0 (s : State) (code : ErrCode) (w : Word32) : (s.raise code w).p0 = s.p0 := rfl
@[simp] theorem State.raise_p1 (s : State) (code : ErrCode) (w : Word32) : (s.raise code w).p1 = s.p1 := rfl
@[simp] theorem State.raise_p2 (s : State) (code : ErrCode) (w : Word32) : (s.raise code w).p2 = s.p2 := rfl
@[simp] theorem State.raise_pcount (s : State) (code : ErrCode) (w : Word32) : (s.raise code w).pcount = s.pcount := rfl
@[simp] theorem State.raise_len (s : State) (code : ErrCode) (w : Word32) : (s.raise code w).len = s.len := rfl
@[simp] theorem State.raise_ctx (s : State) (code : ErrCode) (w : Word32) : (s.raise code w).ctx = s.ctx := rfl
@[simp] theorem State.raise_tvalid (s : State) (code : ErrCode) (w : Word32) : (s.raise code w).tvalid = s.tvalid := rfl
@[simp] theorem State.raise_tseed (s : State) (code : ErrCode) (w : Word32) : (s.raise code w).tseed = s.tseed := rfl
@[simp] theorem State.raise_digest (s : State) (code : ErrCode) (w : Word32) : (s.raise code w).digest = s.digest := rfl
@[simp] theorem State.raise_dvalid (s : State) (code : ErrCode) (w : Word32) : (s.raise code w).dvalid = s.dvalid := rfl
@[simp] theorem State.raise_err (s : State) (code : ErrCode) (w : Word32) : (s.raise code w).err = true := rfl
@[simp] theorem State.raise_errcode (s : State) (code : ErrCode) (w : Word32) : (s.raise code w).errcode = code := rfl
@[simp] theorem State.raise_errcmd (s : State) (code : ErrCode) (w : Word32) : (s.raise code w).errcmd = w := rfl
@[simp] theorem State.raise_arg (s : State) (code : ErrCode) (w : Word32) : (s.raise code w).arg = s.arg := rfl
@[simp] theorem State.raise_finalDone (s : State) (code : ErrCode) (w : Word32) : (s.raise code w).finalDone = s.finalDone := rfl
@[simp] theorem State.raise_pending (s : State) (code : ErrCode) (w : Word32) : (s.raise code w).pending = s.pending := rfl
@[simp] theorem State.raise_replies (s : State) (code : ErrCode) (w : Word32) : (s.raise code w).replies = s.replies := rfl

/-! Reset: the values of R230, and the draw in the registers it leaves unspecified. -/

@[simp] theorem State.resetWith_table (d : ResetDraw) : (State.resetWith d).table = [] := rfl
@[simp] theorem State.resetWith_acc (d : ResetDraw) : (State.resetWith d).acc = d.acc := rfl
@[simp] theorem State.resetWith_csum (d : ResetDraw) : (State.resetWith d).csum = d.csum := rfl
@[simp] theorem State.resetWith_p0 (d : ResetDraw) : (State.resetWith d).p0 = d.p0 := rfl
@[simp] theorem State.resetWith_p1 (d : ResetDraw) : (State.resetWith d).p1 = d.p1 := rfl
@[simp] theorem State.resetWith_p2 (d : ResetDraw) : (State.resetWith d).p2 = d.p2 := rfl
@[simp] theorem State.resetWith_pcount (d : ResetDraw) : (State.resetWith d).pcount = 0 := rfl
@[simp] theorem State.resetWith_len (d : ResetDraw) : (State.resetWith d).len = d.len := rfl
@[simp] theorem State.resetWith_ctx (d : ResetDraw) : (State.resetWith d).ctx = false := rfl
@[simp] theorem State.resetWith_tvalid (d : ResetDraw) : (State.resetWith d).tvalid = false := rfl
@[simp] theorem State.resetWith_tseed (d : ResetDraw) : (State.resetWith d).tseed = 0 := rfl
@[simp] theorem State.resetWith_digest (d : ResetDraw) : (State.resetWith d).digest = d.digest := rfl
@[simp] theorem State.resetWith_dvalid (d : ResetDraw) : (State.resetWith d).dvalid = false := rfl
@[simp] theorem State.resetWith_err (d : ResetDraw) : (State.resetWith d).err = false := rfl
@[simp] theorem State.resetWith_errcode (d : ResetDraw) : (State.resetWith d).errcode = .none := rfl
@[simp] theorem State.resetWith_errcmd (d : ResetDraw) : (State.resetWith d).errcmd = 0 := rfl
@[simp] theorem State.resetWith_arg (d : ResetDraw) : (State.resetWith d).arg = 0 := rfl
@[simp] theorem State.resetWith_finalDone (d : ResetDraw) : (State.resetWith d).finalDone = false := rfl
@[simp] theorem State.resetWith_pending (d : ResetDraw) : (State.resetWith d).pending = [] := rfl
@[simp] theorem State.resetWith_replies (d : ResetDraw) : (State.resetWith d).replies = [] := rfl

@[simp] theorem State.platformReset_table (s : State) : s.platformReset.table = [] := rfl
@[simp] theorem State.platformReset_acc (s : State) : s.platformReset.acc = ResetDraw.named.acc := rfl
@[simp] theorem State.platformReset_csum (s : State) : s.platformReset.csum = ResetDraw.named.csum := rfl
@[simp] theorem State.platformReset_p0 (s : State) : s.platformReset.p0 = ResetDraw.named.p0 := rfl
@[simp] theorem State.platformReset_p1 (s : State) : s.platformReset.p1 = ResetDraw.named.p1 := rfl
@[simp] theorem State.platformReset_p2 (s : State) : s.platformReset.p2 = ResetDraw.named.p2 := rfl
@[simp] theorem State.platformReset_pcount (s : State) : s.platformReset.pcount = 0 := rfl
@[simp] theorem State.platformReset_len (s : State) : s.platformReset.len = ResetDraw.named.len := rfl
@[simp] theorem State.platformReset_ctx (s : State) : s.platformReset.ctx = false := rfl
@[simp] theorem State.platformReset_tvalid (s : State) : s.platformReset.tvalid = false := rfl
@[simp] theorem State.platformReset_tseed (s : State) : s.platformReset.tseed = 0 := rfl
@[simp] theorem State.platformReset_digest (s : State) : s.platformReset.digest = ResetDraw.named.digest := rfl
@[simp] theorem State.platformReset_dvalid (s : State) : s.platformReset.dvalid = false := rfl
@[simp] theorem State.platformReset_err (s : State) : s.platformReset.err = false := rfl
@[simp] theorem State.platformReset_errcode (s : State) : s.platformReset.errcode = .none := rfl
@[simp] theorem State.platformReset_errcmd (s : State) : s.platformReset.errcmd = 0 := rfl
@[simp] theorem State.platformReset_arg (s : State) : s.platformReset.arg = 0 := rfl
@[simp] theorem State.platformReset_finalDone (s : State) : s.platformReset.finalDone = false := rfl
@[simp] theorem State.platformReset_pending (s : State) : s.platformReset.pending = s.pending := rfl
@[simp] theorem State.platformReset_replies (s : State) : s.platformReset.replies = s.replies := rfl

/-! The part of the state that Mix reads (R150). -/

@[simp] theorem State.mixState_acc (s : State) : s.mixState.acc = s.acc := rfl
@[simp] theorem State.mixState_csum (s : State) : s.mixState.csum = s.csum := rfl
@[simp] theorem State.mixState_table (s : State) : s.mixState.table = s.table := rfl
@[simp] theorem State.putMix_mixState (s : State) (m : MixState) : (s.putMix m).mixState = m := rfl
@[simp] theorem State.putMix_self (s : State) : s.putMix s.mixState = s := rfl
@[simp] theorem State.putMix_putMix (s : State) (m n : MixState) : (s.putMix m).putMix n = s.putMix n := rfl

end Sys2Proof.Machine
end

