-- ==== Sys2Proof/Laws/Bus.lean ====
section
/-! SUPPORT. What a step does, access by access, and what the register map holds, for later proofs to cite. -/

namespace Sys2Proof.Machine

variable {s t : State} {rest : List Access}

/-- With an access to make, a step makes it (R68). -/
theorem step_cons {a : Access} (h : s.pending = a :: rest) : step s = access a (s.withPending rest) := by
  unfold step; rw [h]

/-- With none, a step is idle (log 3). -/
theorem step_nil (h : s.pending = []) : step s = .next s := by
  unfold step; rw [h]

theorem withPending_eq (s : State) (rest : List Access) : s.withPending rest = { s with pending := rest } := rfl

/-- A word-wide access at a multiple of 4 inside the map reaches its register (R41, R62). -/
theorem onReg_eq {off : Nat} {r : Reg} (hm : off % 4 = 0) (hr : regAt off = some r) (k : Reg → Result) :
    onReg off 4 k = k r := by
  simp [onReg, hm, hr]

/-- An access that does not stop the model is word-wide, at a multiple of 4, inside the map, and reaches its register. -/
theorem onReg_inv {off bytes : Nat} {k : Reg → Result} {x : Result} (h : onReg off bytes k = x) :
    x = .refused .accessWidth ∧ bytes ≠ 4 ∨ x = .refused .accessMisaligned ∧ bytes = 4 ∧ off % 4 ≠ 0 ∨
    x = .refused .accessOutsideMap ∧ bytes = 4 ∧ off % 4 = 0 ∧ regAt off = none ∨
    bytes = 4 ∧ off % 4 = 0 ∧ ∃ r, regAt off = some r ∧ k r = x := by
  subst h
  by_cases hb : bytes = 4
  · by_cases hm : off % 4 = 0
    · cases hr : regAt off <;> simp [onReg, hb, hm, hr]
    · simp [onReg, hb, hm]
  · simp [onReg, hb]

theorem regAt_eq_none {off : Nat} : regAt off = none ↔ Config.windowBytes ≤ off := by
  unfold regAt
  constructor
  · intro h
    by_contra hn
    rw [if_neg hn] at h
    repeat' split at h
    all_goals simp at h
  · intro h; rw [if_pos h]

theorem regAt_cmd : regAt 0x0000 = some .cmd := rfl
theorem regAt_arg : regAt 0x0004 = some .arg := rfl
theorem regAt_status : regAt 0x0008 = some .status := rfl
theorem regAt_errcmd : regAt 0x000C = some .errcmd := rfl
theorem regAt_tseed : regAt 0x0010 = some .tseed := rfl

/-- CMD and ARG are each at one offset (R41). -/
theorem regAt_eq_cmd {off : Nat} (h : regAt off = some .cmd) : off = 0x0000 := by
  unfold regAt at h; repeat' split at h
  all_goals simp_all

theorem regAt_eq_arg {off : Nat} (h : regAt off = some .arg) : off = 0x0004 := by
  unfold regAt at h; repeat' split at h
  all_goals simp_all

/-- DIGESTk at 0x0020 + 4k (R41). -/
theorem regAt_digest (k : BitVec 3) : regAt (0x0020 + 4 * k.toNat) = some (.digest k) := by
  have := k.isLt
  unfold regAt Config.windowBytes
  rw [if_neg (by omega), if_neg (by omega), if_pos (by omega)]
  congr 2; apply BitVec.eq_of_toNat_eq; rw [BitVec.toNat_ofNat]; omega

/-- TWIN_LO[i] at 0x4000 + 8i (R41). -/
theorem regAt_twinLo (i : Index) : regAt (0x4000 + 8 * i.toNat) = some (.twinLo i) := by
  have := i.isLt
  unfold regAt Config.windowBytes
  rw [if_neg (by omega), if_pos (by omega), if_pos (by omega)]
  congr 2; apply BitVec.eq_of_toNat_eq; rw [BitVec.toNat_ofNat]; omega

/-- TWIN_HI[i] at 0x4004 + 8i (R41). -/
theorem regAt_twinHi (i : Index) : regAt (0x4004 + 8 * i.toNat) = some (.twinHi i) := by
  have := i.isLt
  unfold regAt Config.windowBytes
  rw [if_neg (by omega), if_pos (by omega), if_neg (by omega)]
  congr 2; apply BitVec.eq_of_toNat_eq; rw [BitVec.toNat_ofNat]; omega

/-- A reserved offset (R41). -/
theorem regAt_reserved {off : Nat} (hm : off % 4 = 0)
    (h : 0x0014 ≤ off ∧ off ≤ 0x001F ∨ 0x0040 ≤ off ∧ off ≤ 0x3FFF) : regAt off = some .reserved := by
  unfold regAt Config.windowBytes
  repeat' split
  all_goals first | rfl | omega

/-- What a write of CMD answers (R40, R83, R205). -/
theorem writeCmd_ok {w : Word32} {i : Instr} (he : s.err = false) (hd : decode w = .ok i) :
    writeCmd w s = exec i s := by
  simp [writeCmd, he, hd]

theorem writeCmd_err (w : Word32) (he : s.err = true) : writeCmd w s = .next s := by
  simp [writeCmd, he]

theorem writeCmd_illegal {w : Word32} {e : DecodeError} (he : s.err = false) (hd : decode w = .error e) :
    writeCmd w s = .next (s.raise .illegalCmd w) := by
  simp [writeCmd, he, hd]

/-- A write of any register but CMD and ARG is ignored (R41). -/
theorem writeReg_ignored {r : Reg} (v : Word32) (hc : r ≠ .cmd) (ha : r ≠ .arg) : writeReg r v s = .next s := by
  cases r <;> simp_all [writeReg]

end Sys2Proof.Machine
end

