-- ==== Sys2Proof/Laws/Decode.lean ====
section
/-! SUPPORT. The fields of a command word and the word of the fields are each other's inverse, and every command is
well-formed. -/

namespace Sys2Proof

/-- Splitting the word made of three fields gives the fields back (R80). -/
theorem fieldsOf_wordOf (f : CommandFields) : fieldsOf (wordOf f) = f := by
  obtain ⟨op, nbm1, rsv⟩ := f
  simp only [fieldsOf, wordOf, CommandFields.mk.injEq]
  refine ⟨?_, ?_, ?_⟩ <;> ext i hi <;> simp <;> grind

/-- The word made of a word's three fields is the word (R80). -/
theorem wordOf_fieldsOf (w : Word32) : wordOf (fieldsOf w) = w := by
  simp only [fieldsOf, wordOf]
  ext i hi
  simp only [BitVec.getElem_append, BitVec.getElem_extractLsb']
  grind

theorem fieldsOf_encode (i : Instr) : fieldsOf (encode i) = i.fields := fieldsOf_wordOf _

/-- The fields decide the word (R80). -/
theorem fieldsOf_injective {v w : Word32} (h : fieldsOf v = fieldsOf w) : v = w := by
  rw [← wordOf_fieldsOf v, h, wordOf_fieldsOf]

/-- Every term of `Instr` is well-formed: NBM1 has no illegal value for UPDATE (R82, R83). -/
theorem Instr.wellFormed_true (i : Instr) : i.wellFormed = true := by
  cases i <;> simp [Instr.wellFormed, Instr.fields, CommandFields.legal, CommandFields.reservedClear,
    CommandFields.opcodeKnown, CommandFields.byteCountAllowed]

end Sys2Proof
end

