-- ==== Sys2Proof/Laws/Memory.lean ====
section
/-! SUPPORT. The laws of the table: what a read gives after a write and after a fill, that both keep the canonical form, and
that canonical tables with the same reads are equal. -/

namespace Sys2Proof.Machine

@[simp] theorem Memory.read_nil (i : Nat) : Memory.read [] i = none := rfl

theorem Memory.read_cons (j : Nat) (v : Word64) (m : Memory) (i : Nat) :
    Memory.read ((j, v) :: m) i = if i = j then some v else Memory.read m i := rfl

/-- A read of the entry written gives the value written (R69). -/
theorem Memory.read_write_self (m : Memory) (i : Nat) (v : Word64) : (m.write i v).read i = some v := by
  induction m with
  | nil => simp [Memory.write, Memory.read_cons]
  | cons c m ih =>
    obtain ⟨j, u⟩ := c
    unfold Memory.write
    split
    · simp [Memory.read_cons]
    · split
      · simp [Memory.read_cons]
      · simp [Memory.read_cons, *]

/-- A write leaves every other entry alone (R69). -/
theorem Memory.read_write_ne (m : Memory) {i k : Nat} (v : Word64) (h : k ≠ i) :
    (m.write i v).read k = m.read k := by
  induction m with
  | nil => simp [Memory.write, Memory.read_cons, h]
  | cons c m ih =>
    obtain ⟨j, u⟩ := c
    unfold Memory.write
    split
    · simp [Memory.read_cons, h]
    · split
      · subst_vars; simp [Memory.read_cons, h]
      · simp [Memory.read_cons, ih]

theorem Memory.read_write (m : Memory) (i k : Nat) (v : Word64) :
    (m.write i v).read k = if k = i then some v else m.read k := by
  split
  · subst_vars; exact Memory.read_write_self ..
  · exact Memory.read_write_ne _ _ ‹_›

/-- The entries of a table after a write: the one written, or one that was there. -/
theorem Memory.mem_write {m : Memory} {i : Nat} {v : Word64} {c : Nat × Word64} (h : c ∈ m.write i v) :
    c = (i, v) ∨ c ∈ m := by
  induction m with
  | nil => simpa [Memory.write] using h
  | cons d m ih =>
    obtain ⟨j, u⟩ := d
    unfold Memory.write at h
    split at h
    · simpa using h
    · split at h
      · rcases List.mem_cons.1 h with h | h
        · exact .inl h
        · exact .inr (List.mem_cons_of_mem _ h)
      · rcases List.mem_cons.1 h with h | h
        · exact .inr (h ▸ List.mem_cons_self)
        · exact (ih h).imp_right (List.mem_cons_of_mem _)

/-- A write at an index below 2048 keeps the canonical form (R31). -/
theorem Memory.write_wf {m : Memory} (h : m.wf) {i : Nat} (hi : i < Config.tableEntries) (v : Word64) :
    (m.write i v).wf := by
  refine ⟨?_, fun c hc => ?_⟩
  · have := h.1
    clear h hi
    induction m with
    | nil => simp [Memory.write]
    | cons d m ih =>
      obtain ⟨j, u⟩ := d
      rw [List.pairwise_cons] at this
      unfold Memory.write
      split
      · rename_i hij
        refine List.pairwise_cons.2 ⟨fun c hc => ?_, List.pairwise_cons.2 this⟩
        rcases List.mem_cons.1 hc with hc | hc
        · subst hc; exact hij
        · exact Nat.lt_trans hij (this.1 c hc)
      · split
        · subst_vars; exact List.pairwise_cons.2 this
        · refine List.pairwise_cons.2 ⟨fun c hc => ?_, ih this.2⟩
          rcases Memory.mem_write hc with hc | hc
          · subst hc; show j < i; omega
          · exact this.1 c hc
  · rcases Memory.mem_write hc with hc | hc
    · subst hc; exact hi
    · exact h.2 c hc

/-- An entry that holds no value is below no entry of the table that comes later. -/
theorem Memory.read_eq_none {m : Memory} {i : Nat} (h : ∀ c ∈ m, c.1 ≠ i) : m.read i = none := by
  induction m with
  | nil => rfl
  | cons d m ih =>
    obtain ⟨j, u⟩ := d
    rw [Memory.read_cons, if_neg fun e => h (j, u) (by simp) e.symm]
    exact ih fun c hc => h c (List.mem_cons_of_mem _ hc)

/-- In a canonical table every index that holds a value is below 2048 (R31). -/
theorem Memory.read_bound {m : Memory} (h : m.wf) {i : Nat} {v : Word64} (hr : m.read i = some v) :
    i < Config.tableEntries := by
  by_contra hi
  have : m.read i = none := Memory.read_eq_none fun c hc e => hi (e ▸ h.2 c hc)
  simp [this] at hr

/-- Two canonical tables that read the same are the same data. -/
theorem Memory.ext_read {m n : Memory} (hm : m.wf) (hn : n.wf) (h : ∀ i, m.read i = n.read i) : m = n := by
  replace hm := hm.1
  replace hn := hn.1
  induction m generalizing n with
  | nil =>
    cases n with
    | nil => rfl
    | cons d n => have := h d.1; obtain ⟨j, u⟩ := d; simp [Memory.read_cons] at this
  | cons c m ih =>
    obtain ⟨i, v⟩ := c
    cases n with
    | nil => have := h i; simp [Memory.read_cons] at this
    | cons d n =>
      obtain ⟨j, u⟩ := d
      rw [List.pairwise_cons] at hm hn
      have nm : ∀ k, k ≤ i → Memory.read m k = none := fun k hk =>
        Memory.read_eq_none fun c hc e => by have := hm.1 c hc; simp only at this; omega
      have nn : ∀ k, k ≤ j → Memory.read n k = none := fun k hk =>
        Memory.read_eq_none fun c hc e => by have := hn.1 c hc; simp only at this; omega
      have hij : i = j := by
        by_contra hne
        rcases Nat.lt_or_gt_of_ne hne with hlt | hlt
        · have := h i; simp [Memory.read_cons, hne, nn i (Nat.le_of_lt hlt)] at this
        · have := h j
          simp [Memory.read_cons, nm j (Nat.le_of_lt hlt)] at this
          exact absurd this.symm (by omega)
      subst hij
      have hvu : v = u := by have := h i; simpa [Memory.read_cons] using this
      subst hvu
      congr 1
      refine ih (fun k => ?_) hm.2 hn.2
      by_cases hk : k = i
      · subst hk; rw [nm k le_rfl, nn k le_rfl]
      · have := h k; simpa [Memory.read_cons, hk] using this

theorem Memory.fill_eq (f : Index → Word64) :
    Memory.fill f = (List.range Config.tableEntries).map fun i => (i, f (BitVec.ofNat 11 i)) := by
  unfold Memory.fill
  rfl

/-- A filled table is canonical. -/
theorem Memory.fill_wf (f : Index → Word64) : (Memory.fill f).wf := by
  rw [Memory.fill_eq]
  refine ⟨?_, fun c hc => ?_⟩
  · rw [List.pairwise_map]
    exact List.pairwise_lt_range
  · obtain ⟨i, hi, rfl⟩ := List.mem_map.1 hc
    exact List.mem_range.1 hi

theorem Memory.read_map (g : Nat → Word64) (l : List Nat) (i : Nat) :
    Memory.read (l.map fun i => (i, g i)) i = if i ∈ l then some (g i) else none := by
  induction l with
  | nil => rfl
  | cons j l ih =>
    rw [List.map_cons, Memory.read_cons, ih]
    by_cases h : i = j
    · simp [h]
    · simp [h]

/-- Every entry i of a filled table holds `f i` (R101). -/
theorem Memory.read_fill (f : Index → Word64) (i : Nat) :
    (Memory.fill f).read i = if i < Config.tableEntries then some (f (BitVec.ofNat 11 i)) else none := by
  rw [Memory.fill_eq, Memory.read_map fun i => f (BitVec.ofNat 11 i)]
  simp

/-- A filled table is full (R44 item 5). -/
theorem Memory.fill_full (f : Index → Word64) : (Memory.fill f).full := fun i hi => by
  simp [Memory.read_fill, hi]

/-- A write keeps a table full. -/
theorem Memory.write_full {m : Memory} (h : m.full) (i : Nat) (v : Word64) : (m.write i v).full := fun k hk => by
  rw [Memory.read_write]
  split
  · rfl
  · exact h k hk

theorem index_lt (i : Index) : i.toNat < Config.tableEntries := i.isLt

/-- Every index of a full table holds a value (R44). -/
theorem Memory.read_of_full {m : Memory} (h : m.full) (i : Index) : ∃ e, m.read i.toNat = some e :=
  Option.isSome_iff_exists.1 (h i.toNat (index_lt i))

end Sys2Proof.Machine
end

