-- ==== Sys2Proof/Laws/Mixer.lean ====
section
/-! SUPPORT. Everything one iteration and one Mix can do: where they stop, what they write, and that they keep the table
canonical and full. -/

namespace Sys2Proof.Machine

variable {p : Config.Profile} {c : Word32} {w w' : Walk} {m m' : MixState} {s t : State}

/-- One iteration answers exactly where T[idx] holds a value, and then with the state of R150. -/
theorem walkStep_eq_some :
    walkStep p c w = some w' ↔ ∃ e, w.table.read w.idx.toNat = some e ∧
      w' = { idx := p.h (p.g w.acc e c) c, acc := p.g w.acc e c,
             table := w.table.write w.idx.toNat (p.f e (p.g w.acc e c) c) } := by
  simp [walkStep, eq_comm]

theorem walkStep_wf (h : walkStep p c w = some w') (hw : w.table.wf) : w'.table.wf := by
  obtain ⟨e, -, rfl⟩ := walkStep_eq_some.1 h
  exact Memory.write_wf hw (index_lt _) _

theorem walkStep_full (h : walkStep p c w = some w') (hw : w.table.full) : w'.table.full := by
  obtain ⟨e, -, rfl⟩ := walkStep_eq_some.1 h
  exact Memory.write_full hw _ _

theorem walk_succ (n : Nat) : walk p c (n + 1) w = (walkStep p c w).bind (walk p c n) := rfl

/-- What every iteration keeps, the loop keeps. -/
theorem walk_induct {P : Walk → Prop} (hP : ∀ w w', walkStep p c w = some w' → P w → P w') {n : Nat}
    (h : walk p c n w = some w') (hw : P w) : P w' := by
  induction n generalizing w with
  | zero => cases h; exact hw
  | succ n ih =>
    rw [walk_succ, Option.bind_eq_some_iff] at h
    obtain ⟨v, hv, h⟩ := h
    exact ih h (hP _ _ hv hw)

/-- The loop ends on a full table: "Mix raises no fault" (R159). -/
theorem walk_of_full (hw : w.table.full) (n : Nat) : ∃ w', walk p c n w = some w' := by
  induction n generalizing w with
  | zero => exact ⟨w, rfl⟩
  | succ n ih =>
    obtain ⟨e, he⟩ := Memory.read_of_full hw w.idx
    have h : walkStep p c w = some _ := walkStep_eq_some.2 ⟨e, he, rfl⟩
    obtain ⟨w', hw'⟩ := ih (walkStep_full h hw)
    exact ⟨w', by rw [walk_succ, h]; exact hw'⟩

/-- Mix answers with CSUM from step 1 and with A and T of the loop (R150, R158). -/
theorem mix_eq_some {u : Word32} :
    mix p u m = some m' ↔ ∃ w, walk p (p.crc m.csum u) p.loops (mixStart p u m) = some w ∧
      m' = { acc := w.acc, csum := p.crc m.csum u, table := w.table } := by
  simp [mix, eq_comm]

theorem mix_wf {u : Word32} (h : mix p u m = some m') (hm : m.table.wf) : m'.table.wf := by
  obtain ⟨w, hw, rfl⟩ := mix_eq_some.1 h
  exact walk_induct (P := fun w => w.table.wf) (fun _ _ => walkStep_wf) hw hm

theorem mix_full {u : Word32} (h : mix p u m = some m') (hm : m.table.full) : m'.table.full := by
  obtain ⟨w, hw, rfl⟩ := mix_eq_some.1 h
  exact walk_induct (P := fun w => w.table.full) (fun _ _ => walkStep_full) hw hm

theorem mix_of_full (hm : m.table.full) (u : Word32) : ∃ m', mix p u m = some m' := by
  obtain ⟨w, hw⟩ := walk_of_full (w := mixStart p u m) hm p.loops
  exact ⟨_, mix_eq_some.2 ⟨w, hw, rfl⟩⟩

@[simp] theorem mixUnits_nil : mixUnits p [] m = some m := rfl

theorem mixUnits_cons (u : Word32) (us : List Word32) :
    mixUnits p (u :: us) m = (mix p u m).bind (mixUnits p us) := rfl

theorem mixUnits_append (us vs : List Word32) :
    mixUnits p (us ++ vs) m = (mixUnits p us m).bind (mixUnits p vs) := by
  induction us generalizing m with
  | nil => rfl
  | cons u us ih =>
    rw [List.cons_append, mixUnits_cons, mixUnits_cons, Option.bind_assoc]
    congr 1; funext m'; exact ih

/-- What every Mix keeps, a list of them keeps. -/
theorem mixUnits_induct {P : MixState → Prop} (hP : ∀ u m m', mix p u m = some m' → P m → P m') {us : List Word32}
    (h : mixUnits p us m = some m') (hm : P m) : P m' := by
  induction us generalizing m with
  | nil => cases h; exact hm
  | cons u us ih =>
    rw [mixUnits_cons, Option.bind_eq_some_iff] at h
    obtain ⟨n, hn, h⟩ := h
    exact ih h (hP _ _ _ hn hm)

theorem mixUnits_wf {us : List Word32} (h : mixUnits p us m = some m') (hm : m.table.wf) : m'.table.wf :=
  mixUnits_induct (P := fun m => m.table.wf) (fun _ _ _ => mix_wf) h hm

theorem mixUnits_full {us : List Word32} (h : mixUnits p us m = some m') (hm : m.table.full) : m'.table.full :=
  mixUnits_induct (P := fun m => m.table.full) (fun _ _ _ => mix_full) h hm

theorem mixUnits_of_full (hm : m.table.full) (us : List Word32) : ∃ m', mixUnits p us m = some m' := by
  induction us generalizing m with
  | nil => exact ⟨m, rfl⟩
  | cons u us ih =>
    obtain ⟨n, hn⟩ := mix_of_full (p := p) hm u
    obtain ⟨m', h⟩ := ih (mix_full hn hm)
    exact ⟨m', by rw [mixUnits_cons, hn]; exact h⟩

/-- The final passes of RFS-P0: the padding unit, lo32(LEN), hi32(LEN) (R132). -/
theorem passUnits_rfsP0 (bs : List Byte) (len : Word64) :
    passUnits rfsP0 bs len = [padP0 bs, lo32 len, hi32 len] := rfl

/-- Mix on the engine's registers changes A, CSUM and T as Mix does, and nothing else (R159). -/
theorem State.mix_eq_some {u : Word32} :
    s.mix p u = some t ↔ ∃ m, Machine.mix p u s.mixState = some m ∧ t = s.putMix m := by
  simp [State.mix, eq_comm]

theorem State.mixUnits_eq_some {us : List Word32} :
    s.mixUnits p us = some t ↔ ∃ m, Machine.mixUnits p us s.mixState = some m ∧ t = s.putMix m := by
  simp [State.mixUnits, eq_comm]

end Sys2Proof.Machine
end

