-- ==== Sys2Proof/Laws/Ops.lean ====
section
/-! SUPPORT. What the guards of a command answer, case by case, for later proofs to cite. -/

namespace Sys2Proof.Machine

theorem unlessFaulted_err {s : State} (h : s.err = true) (k : Result) : unlessFaulted s k = .next s := by
  simp [unlessFaulted, h]

theorem unlessFaulted_ok {s : State} (h : s.err = false) (k : Result) : unlessFaulted s k = k := by
  simp [unlessFaulted, h]

@[simp] theorem check_true (code : ErrCode) (i : Instr) (s : State) (k : Result) :
    check true code i s k = .next (s.raise code (encode i)) := rfl

@[simp] theorem check_false (code : ErrCode) (i : Instr) (s : State) (k : Result) : check false code i s k = k := rfl

/-- A guarded command that answers a next state was ignored, or ran. -/
theorem unlessFaulted_next {s t : State} {k : Result} (h : unlessFaulted s k = .next t) :
    s.err = true ∧ t = s ∨ s.err = false ∧ k = .next t := by
  unfold unlessFaulted at h
  split at h
  · rename_i he; exact .inl ⟨he, by cases h; rfl⟩
  · rename_i he; exact .inr ⟨by simpa using he, h⟩

/-- A checked command that answers a next state ended in the error entry, or went on. -/
theorem check_next {bad : Bool} {code : ErrCode} {i : Instr} {s t : State} {k : Result}
    (h : check bad code i s k = .next t) :
    bad = true ∧ t = s.raise code (encode i) ∨ bad = false ∧ k = .next t := by
  cases bad
  · exact .inr ⟨rfl, h⟩
  · exact .inl ⟨rfl, by cases h; rfl⟩

theorem orTableFault_next {o : Option State} {t : State} : orTableFault o = .next t ↔ o = some t := by
  cases o <;> simp [orTableFault]

theorem orTableFault_fault {o : Option State} {e : Fault} :
    orTableFault o = .fault e ↔ o = none ∧ e = .tableEntryAbsent := by
  cases o <;> simp [orTableFault, eq_comm]

end Sys2Proof.Machine
end

