-- ==== Sys2Proof/Laws/Hasher.lean ====
section
/-! SUPPORT. Everything one UpdateByte step can do, and the small laws of a sequence of them. -/

namespace Sys2Proof.Machine

variable {p : Config.Profile} {s t : State} {b : Byte} {bs cs : List Byte}

/-- UpdateByte either stores the byte as pending, or mixes the unit it completes (R126). -/
theorem updateByte_eq_some :
    updateByte p b s = some t ↔
      (s.pcount ≠ 3 ∧ t = (s.countByte.storePending s.pcount b).setPcount (s.pcount + 1)) ∨
      (s.pcount = 3 ∧ ∃ m, Machine.mix p (p.pack s.p0 s.p1 s.p2 b) s.mixState = some m ∧
        t = (s.countByte.putMix m).setPcount 0) := by
  by_cases h : s.pcount = 3
  · have : updateByte p b s = (s.countByte.mix p (p.pack s.p0 s.p1 s.p2 b)).map (State.setPcount 0) := if_pos h
    simp only [this, h, ne_eq, not_true_eq_false, false_and, false_or, true_and, Option.map_eq_some_iff,
      State.mix_eq_some]
    constructor
    · rintro ⟨_, ⟨m, hm, rfl⟩, rfl⟩; exact ⟨m, hm, rfl⟩
    · rintro ⟨m, hm, rfl⟩; exact ⟨_, ⟨m, hm, rfl⟩, rfl⟩
  · have : updateByte p b s = some ((s.countByte.storePending s.pcount b).setPcount (s.pcount + 1)) := if_neg h
    simp only [this, h, ne_eq, not_false_eq_true, true_and, false_and, or_false, Option.some.injEq, eq_comm]

@[simp] theorem feed_nil : feed p [] s = some s := rfl

theorem feed_cons : feed p (b :: bs) s = (updateByte p b s).bind (feed p bs) := rfl

/-- Feeding a concatenation is feeding its parts one after the other (R128). -/
theorem feed_append : feed p (bs ++ cs) s = (feed p bs s).bind (feed p cs) := by
  induction bs generalizing s with
  | nil => rfl
  | cons b bs ih =>
    rw [List.cons_append, feed_cons, feed_cons, Option.bind_assoc]
    congr 1; funext t; exact ih

/-- What every UpdateByte step keeps, a sequence of them keeps. -/
theorem feed_induct {P : State → Prop} (hP : ∀ b s t, updateByte p b s = some t → P s → P t)
    (h : feed p bs s = some t) (hs : P s) : P t := by
  induction bs generalizing s with
  | nil => cases h; exact hs
  | cons b bs ih =>
    rw [feed_cons, Option.bind_eq_some_iff] at h
    obtain ⟨u, hu, h⟩ := h
    exact ih h (hP _ _ _ hu hs)

theorem updateByte_wf (h : updateByte p b s = some t) (hs : s.table.wf) : t.table.wf := by
  rcases updateByte_eq_some.1 h with ⟨-, rfl⟩ | ⟨-, m, hm, rfl⟩
  · exact hs
  · exact mix_wf hm hs

theorem updateByte_full (h : updateByte p b s = some t) (hs : s.table.full) : t.table.full := by
  rcases updateByte_eq_some.1 h with ⟨-, rfl⟩ | ⟨-, m, hm, rfl⟩
  · exact hs
  · exact mix_full hm hs

/-- On a full table every byte is taken. -/
theorem updateByte_of_full (hs : s.table.full) (b : Byte) : ∃ t, updateByte p b s = some t := by
  by_cases h : s.pcount = 3
  · obtain ⟨m, hm⟩ := mix_of_full (p := p) (m := s.mixState) hs (p.pack s.p0 s.p1 s.p2 b)
    exact ⟨_, updateByte_eq_some.2 (.inr ⟨h, m, hm, rfl⟩)⟩
  · exact ⟨_, updateByte_eq_some.2 (.inl ⟨h, rfl⟩)⟩

theorem feed_of_full (hs : s.table.full) (bs : List Byte) : ∃ t, feed p bs s = some t := by
  induction bs generalizing s with
  | nil => exact ⟨s, rfl⟩
  | cons b bs ih =>
    obtain ⟨u, hu⟩ := updateByte_of_full (p := p) hs b
    obtain ⟨t, ht⟩ := ih (updateByte_full hu hs)
    exact ⟨t, by rw [feed_cons, hu]; exact ht⟩

/-- What a byte never touches: everything but T, A, CSUM, the pending buffer and LEN (R124). -/
theorem updateByte_frame (h : updateByte p b s = some t) :
    t = { s with
      table := t.table, acc := t.acc, csum := t.csum, p0 := t.p0, p1 := t.p1, p2 := t.p2
      pcount := t.pcount, len := t.len } := by
  rcases updateByte_eq_some.1 h with ⟨-, rfl⟩ | ⟨-, m, -, rfl⟩ <;> rfl

/-- The same of a sequence of bytes (R124). -/
theorem feed_frame (h : feed p bs s = some t) :
    t = { s with
      table := t.table, acc := t.acc, csum := t.csum, p0 := t.p0, p1 := t.p1, p2 := t.p2
      pcount := t.pcount, len := t.len } := by
  refine feed_induct (P := fun u => u = { s with
      table := u.table, acc := u.acc, csum := u.csum, p0 := u.p0, p1 := u.p1, p2 := u.p2
      pcount := u.pcount, len := u.len }) (fun b u v hu ih => ?_) h rfl
  rw [updateByte_frame hu, ih]

/-- UPDATE takes n = NBM1 + 1 bytes (R84). -/
theorem argBytes_length (nbm1 : BitVec 2) (v : Word32) : (argBytes nbm1 v).length = nbm1.toNat + 1 := by
  have := nbm1.isLt
  simp [argBytes, byteCount]; omega

/-- PCOUNT is the number of pending bytes (R29). -/
theorem State.pendingBytes_length (s : State) : s.pendingBytes.length = s.pcount.toNat := by
  have := s.pcount.isLt
  simp [State.pendingBytes]; omega

theorem State.pendingBytes_full (h : s.pcount = 3) : s.pendingBytes = [s.p0, s.p1, s.p2] := by
  simp [State.pendingBytes, h]

theorem State.pendingBytes_empty (h : s.pcount = 0) : s.pendingBytes = [] := by
  simp [State.pendingBytes, h]

/-- Below the fourth byte of a unit, UpdateByte appends the byte to the pending ones and counts it (R126). -/
theorem updateByte_store (h : s.pcount ≠ 3) (b : Byte) :
    ∃ t, updateByte p b s = some t ∧ t.pendingBytes = s.pendingBytes ++ [b] ∧
      t.pcount.toNat = s.pcount.toNat + 1 ∧ t.mixState = s.mixState ∧ t.len = s.len + 1 := by
  refine ⟨_, updateByte_eq_some.2 (.inl ⟨h, rfl⟩), ?_, ?_, rfl, rfl⟩
  · have low : ∀ k : BitVec 2, k ≠ 3 → k = 0 ∨ k = 1 ∨ k = 2 := by decide
    simp only [State.pendingBytes, State.setPcount_p0, State.setPcount_p1, State.setPcount_p2,
      State.storePending_p0, State.storePending_p1, State.storePending_p2, State.setPcount_pcount,
      State.countByte_p0, State.countByte_p1, State.countByte_p2]
    rcases low _ h with e | e | e <;> rw [e] <;> rfl
  · have step : ∀ k : BitVec 2, k ≠ 3 → (k + 1).toNat = k.toNat + 1 := by decide
    simpa using step _ h

/-- A sequence of bytes keeps a full table full (R44). -/
theorem feed_full (h : feed p bs s = some t) (hs : s.table.full) : t.table.full :=
  feed_induct (P := fun s => s.table.full) (fun _ _ _ => updateByte_full) h hs

/-- No byte reads or writes ARG (R84, R126). -/
theorem feed_setArg (v : Word32) : feed p bs (s.setArg v) = (feed p bs s).map (State.setArg v) := by
  induction bs generalizing s with
  | nil => rfl
  | cons b bs ih =>
    have : updateByte p b (s.setArg v) = (updateByte p b s).map (State.setArg v) := by
      unfold updateByte State.mix
      rw [show (State.countByte (State.setArg v s)).mixState = s.countByte.mixState from rfl]
      by_cases h : s.pcount = 3
      · rw [if_pos (by exact h), if_pos h, Option.map_map, Option.map_map, Option.map_map]; rfl
      · rw [if_neg (by exact h), if_neg h]; rfl
    rw [feed_cons, feed_cons, this]
    cases updateByte p b s <;> simp [ih]

end Sys2Proof.Machine
end

