-- ==== Sys2Proof/Laws/Exec.lean ====
section
/-! SUPPORT. One inversion lemma per command: if it answers a next state, then one of these cases holds. -/

namespace Sys2Proof.Machine

variable {p : Config.Profile} {s t : State} {nbm1 : BitVec 2}

/-- What RBINIT can answer (R101, R205). -/
theorem rbinitWith_next (h : rbinitWith p s = .next t) :
    s.err = true ∧ t = s ∨
    s.err = false ∧ (s.ctx && s.len != 0) = true ∧ t = s.raise .rbinitMidhash (encode .rbinit) ∨
    s.err = false ∧ (s.ctx && s.len != 0) = false ∧ t = s.loadTable (Memory.fill (p.gen s.arg)) s.arg := by
  unfold rbinitWith at h
  rcases unlessFaulted_next h with h | ⟨he, h⟩
  · exact .inl h
  rcases check_next h with ⟨hc, h⟩ | ⟨hc, h⟩
  · exact .inr (.inl ⟨he, hc, h⟩)
  · cases h; exact .inr (.inr ⟨he, hc, rfl⟩)

/-- What INIT can answer (R121, R205). -/
theorem execInit_next (h : execInit s = .next t) :
    s.err = true ∧ t = s ∨ s.err = false ∧ t = s.openContext := by
  unfold execInit at h
  rcases unlessFaulted_next h with h | ⟨he, h⟩
  · exact .inl h
  · cases h; exact .inr ⟨he, rfl⟩

/-- What UPDATE can answer (R124, R205). -/
theorem updateWith_next (h : updateWith p nbm1 s = .next t) :
    s.err = true ∧ t = s ∨
    s.err = false ∧ s.ctx = false ∧ t = s.raise .noContext (encode (.update nbm1)) ∨
    s.err = false ∧ s.ctx = true ∧ s.tvalid = false ∧ t = s.raise .noTable (encode (.update nbm1)) ∨
    s.err = false ∧ s.ctx = true ∧ s.tvalid = true ∧ feed p (argBytes nbm1 s.arg) s = some t := by
  unfold updateWith at h
  rcases unlessFaulted_next h with h | ⟨he, h⟩
  · exact .inl h
  rcases check_next h with ⟨hc, h⟩ | ⟨hc, h⟩
  · exact .inr (.inl ⟨he, by simpa using hc, h⟩)
  rcases check_next h with ⟨hv, h⟩ | ⟨hv, h⟩
  · exact .inr (.inr (.inl ⟨he, by simpa using hc, by simpa using hv, h⟩))
  · exact .inr (.inr (.inr ⟨he, by simpa using hc, by simpa using hv, orTableFault_next.1 h⟩))

/-- What FINAL can answer (R130, R205). -/
theorem finalWith_next (h : finalWith p s = .next t) :
    s.err = true ∧ t = s ∨
    s.err = false ∧ s.ctx = false ∧ t = s.raise .noContext (encode .final) ∨
    s.err = false ∧ s.ctx = true ∧ s.tvalid = false ∧ t = s.raise .noTable (encode .final) ∨
    s.err = false ∧ s.ctx = true ∧ s.tvalid = true ∧
      ∃ m, mixUnits p (finalUnits p s) s.mixState = some m ∧ t = (s.putMix m).publish (p.digestOf m.acc) := by
  unfold finalWith at h
  rcases unlessFaulted_next h with h | ⟨he, h⟩
  · exact .inl h
  rcases check_next h with ⟨hc, h⟩ | ⟨hc, h⟩
  · exact .inr (.inl ⟨he, by simpa using hc, h⟩)
  rcases check_next h with ⟨hv, h⟩ | ⟨hv, h⟩
  · exact .inr (.inr (.inl ⟨he, by simpa using hc, by simpa using hv, h⟩))
  · obtain ⟨u, hu, rfl⟩ := Option.map_eq_some_iff.1 (orTableFault_next.1 h)
    obtain ⟨m, hm, rfl⟩ := State.mixUnits_eq_some.1 hu
    exact .inr (.inr (.inr ⟨he, by simpa using hc, by simpa using hv, m, hm, rfl⟩))

/-- No command is refused (R83: a legal word is one of the four commands). -/
theorem exec_not_refused (i : Instr) (s : State) (r : Refusal) : exec i s ≠ .refused r := by
  cases i <;> simp only [exec, execRbinit, rbinitWith, execInit, execUpdate, updateWith, execFinal, finalWith,
    unlessFaulted, check, orTableFault] <;> repeat' split
  all_goals simp

end Sys2Proof.Machine
end

