-- ==== Sys2Proof/Laws/HostProgram.lean ====
section
/-! SUPPORT. How a run of host accesses is taken apart, and which access sets ARG or issues a command. -/

namespace Sys2Proof.Machine

variable {s : State}

@[simp] theorem runAccesses_nil : runAccesses [] s = .next s := rfl

/-- The accesses of a list are made in order (R68). -/
theorem runAccesses_cons {a : Access} {as : List Access} {t : State} (h : access a s = .next t) :
    runAccesses (a :: as) s = runAccesses as t := by
  simp [runAccesses, h]

/-- A run of two lists one after the other: the second starts where the first ends. -/
theorem runAccesses_append {as bs : List Access} {t : State} (h : runAccesses as s = .next t) :
    runAccesses (as ++ bs) s = runAccesses bs t := by
  induction as generalizing s with
  | nil => cases h; rfl
  | cons a as ih =>
    unfold runAccesses at h
    split at h
    · rename_i u hu; rw [List.cons_append, runAccesses_cons hu, ih h]
    · cases h
    · cases h

/-- The access that sets ARG (R39, R87). -/
theorem access_writeArg (v : Word32) : access (writeArg v) s = .next (s.setArg v) := rfl

/-- The access that issues a command writes its word to CMD (R40, R87). -/
theorem access_issue (i : Instr) : access (issue i) s = writeCmd (encode i) s := rfl

end Sys2Proof.Machine
end

