-- ==== Sys2Proof/Laws/PerInstr.lean ====
section
/-! SUPPORT. The statements made command by command: the family Encoding. -/

namespace Sys2Proof.Laws.Encoding

/-- R80, R82, R83: a command is well-formed, its word is legal, carries the command's own fields, and has every bit of RSV
clear. -/
def Statement (i : Instr) : Prop :=
  i.wellFormed = true ∧ legal (encode i) = true ∧ fieldsOf (encode i) = i.fields ∧ encode i &&& 0xFFFFFC00 = 0

theorem rbinit : Statement .rbinit := by unfold Statement; decide

theorem init : Statement .init := by unfold Statement; decide

theorem update (nbm1 : BitVec 2) : Statement (.update nbm1) := by
  unfold Statement
  revert nbm1
  decide

theorem final : Statement .final := by unfold Statement; decide

end Sys2Proof.Laws.Encoding
end

