-- ==== Sys2Proof/Laws/Safety.lean ====
section
/-! SUPPORT. What the invariant does not see, and that agreement is an equivalence on two states. -/

namespace Sys2Proof.Machine

variable {s t : State}

/-- The invariant says nothing of ARG (R39). -/
theorem State.Inv.setArg (h : s.Inv) (v : Word32) : (s.setArg v).Inv := by
  obtain ⟨a, b, c, d, e, f, g, h, i, j, k⟩ := h
  exact ⟨a, b, c, d, e, f, g, h, i, j, k⟩

/-- The invariant says nothing of the host's accesses. -/
theorem State.Inv.withPending (h : s.Inv) (rest : List Access) : (s.withPending rest).Inv := by
  obtain ⟨a, b, c, d, e, f, g, h, i, j, k⟩ := h
  exact ⟨a, b, c, d, e, f, g, h, i, j, k⟩

/-- The invariant says nothing of the host's replies. -/
theorem State.Inv.reply (h : s.Inv) (v : Word32) : (s.reply v).Inv := by
  obtain ⟨a, b, c, d, e, f, g, h, i, j, k⟩ := h
  exact ⟨a, b, c, d, e, f, g, h, i, j, k⟩

/-- The error entry keeps the invariant (R203). -/
theorem State.Inv.raise (h : s.Inv) {code : ErrCode} (hc : code ≠ .none) (w : Word32) : (s.raise code w).Inv := by
  obtain ⟨a, b, c, d, e, f, g, h, i, j, k⟩ := h
  exact ⟨a, b, c, by simp [hc], by simp, f, g, h, i, j, k⟩

theorem State.AgreeWhereDefined.refl (s : State) : s.AgreeWhereDefined s := by constructor <;> simp

theorem State.AgreeWhereDefined.symm (h : s.AgreeWhereDefined t) : t.AgreeWhereDefined s := by
  obtain ⟨a1, a2, a3, a4, a5, a6, a7, a8, a9, a10, a11, a12, a13, a14, a15, a16, a17, a18⟩ := h
  constructor <;> simp_all

end Sys2Proof.Machine
end

