-- ==== Sys2Proof/Tests/Slice0.lean ====
section
/-! SUPPORT. The model's own tests. Expected values are the vectors of spec/95_test_vectors.md, each named in its comment, or
words written out from rules R80 and R82. The second half holds a witness for the hypotheses of every statement of
Certificates/Slice0/Obligations.lean. -/

namespace Sys2Proof.Tests

open Sys2Proof Sys2Proof.Machine

/-- The next state of an answer, if it is one. -/
def after : Result → Option State
  | .next t => some t
  | .fault _ => none
  | .refused _ => none

/-- A state whose host has the accesses `as` to make. -/
def sending (as : List Access) (s : State) : State := s.withPending as

/-- The default table (R104). -/
def table0 : Memory := Memory.fill (genP0 0)

/-- The state after `rbinit 0` from reset. -/
def loaded : State := State.reset.loadTable table0 0

/-- The state after `rbinit 0` ; `init` from reset. -/
def opened : State := loaded.openContext

/-- A context with `pcount` pending bytes of "abc" on the default table, `arg` in ARG. -/
def midHash (pcount : BitVec 2) (len : Word64) (arg : Word32) : State :=
  { opened with p0 := 0x61, p1 := 0x62, p2 := 0x63, pcount := pcount, len := len, arg := arg }

/-! ### Well-formedness and decoding -/

/-- R83, check by check: an ill-formed word for each. -/
theorem test_ill_formed_fields :
    (fieldsOf 0x00000400).reservedClear = false ∧ (fieldsOf 0x80000004).reservedClear = false ∧
    (fieldsOf 0x00000005).opcodeKnown = false ∧ (fieldsOf 0x00000000).opcodeKnown = false ∧
    (fieldsOf 0x00000102).byteCountAllowed = false ∧
    legal 0x00000400 = false ∧ legal 0x00000005 = false ∧ legal 0x00000102 = false := by decide

/-- R87: the assembler refuses `update 0`, `update 5` and `rd CMD`. -/
theorem test_ill_formed_lines :
    (HostLine.update 0).wellFormed = false ∧ (HostLine.updateArg 5 0).wellFormed = false ∧
    (HostLine.rd .cmd).wellFormed = false ∧ assemble [.init, .update 0] = none := by decide

/-- R80, R82: RSV ++ NBM1 ++ OP, written out bit by bit. -/
theorem test_decode_rbinit : decode 0b0000000000000000000000_00_00000001 = .ok .rbinit := by decide

theorem test_decode_init : decode 0b0000000000000000000000_00_00000010 = .ok .init := by decide

theorem test_decode_update :
    decode 0b0000000000000000000000_00_00000011 = .ok (.update 0) ∧
    decode 0b0000000000000000000000_01_00000011 = .ok (.update 1) ∧
    decode 0b0000000000000000000000_10_00000011 = .ok (.update 2) ∧
    decode 0b0000000000000000000000_11_00000011 = .ok (.update 3) := by decide

theorem test_decode_final : decode 0b0000000000000000000000_00_00000100 = .ok .final := by decide

/-- V-ENC-1: the words the table calls illegal. -/
theorem test_decode_illegal :
    decode 0x00000000 = .error .reservedOpcode ∧ decode 0x00000005 = .error .reservedOpcode ∧
    decode 0x000000FF = .error .reservedOpcode ∧ decode 0x00000101 = .error .strayByteCount ∧
    decode 0x00000102 = .error .strayByteCount ∧ decode 0x00000104 = .error .strayByteCount ∧
    decode 0x00000301 = .error .strayByteCount ∧ decode 0x00000400 = .error .reservedBits ∧
    decode 0x00000403 = .error .reservedBits ∧ decode 0x80000004 = .error .reservedBits := by decide

theorem test_decodeTableWord :
    decodeTableWord 32 0x00000303 = some (.update 3) ∧ decodeTableWord 32 0x00000104 = none := by decide

/-- V-ENC-2: the assembler's expansions. -/
theorem test_assemble :
    assemble [.rbinitSeed 7] = some [.write 0x004 4 7, .write 0x000 4 0x00000001] ∧
    assemble [.updateArg 3 0x00636261] = some [.write 0x004 4 0x00636261, .write 0x000 4 0x00000203] ∧
    assemble [.upd [0x61, 0x62, 0x63, 0x64, 0x65, 0x66, 0x67]] =
      some [.write 0x004 4 0x64636261, .write 0x000 4 0x00000303, .write 0x004 4 0x00676665, .write 0x000 4 0x00000203] ∧
    assemble [.upd []] = some [] ∧ assemble [.rd (.digest 3)] = some [.read 0x02C 4] ∧
    assemble [.rd (.twinLo 525), .rd (.twinHi 525)] = some [.read 0x5068 4, .read 0x506C 4] := by decide

/-! ### Primitives -/

/-- V-CRC-2, V-CRC-3, V-CRC-4, V-CRC-7, V-CRC-8. -/
theorem test_crc :
    crc32w 0 0x00000001 = 0xB8BC6765 ∧ crc32w 0 0x00000080 = 0xED59B63B ∧ crc32w 0xFFFFFFFF 0 = 0xDEBB20E3 ∧
    crc32w 0xDEADBEEF 0x00000080 = 0xD6470938 ∧ crc32w 0 0x64636261 = 0xCCC6120D := by decide +kernel

/-- V-ROT-1, V-ROT-2, V-ROT-3. -/
theorem test_rotl64 :
    rotl64 0x8000000000000001 0 = 0x8000000000000001 ∧ rotl64 0x8000000000000001 1 = 0x0000000000000003 ∧
    rotl64 0x0123456789ABCDEF 23 = 0xB3C4D5E6F78091A2 := by decide

/-- V-AES-2 and V-AES-4 (byte 0 is the low byte). -/
theorem test_aesenc :
    aesenc 0x0F0E0D0C0B0A09080706050403020100 0 = 0x5C219C27615DD9B051336D2C455C6A6A ∧
    aesenc 0x0848F8E92A8DC69A2BE2F4A0BEE33D19 0x05766C2A3939A323B12C548817FEFAA0 =
      0x49506A0243EA5B6B2B359F68F27F9CA4 := by decide +kernel

/-- V-G-1: the combine, the write-back and the next index. -/
theorem test_combine :
    let a := ofQ 0x0123456789ABCDEF 0xFEDCBA9876543210 0x0F1E2D3C4B5A6978 0x8877665544332211
    let a' := ofQ 0xB9FCD7F2ABC048C5 0x8E39B0363BAECA4E 0x766F9659AC995BF3 0x31BFCEF42F83276B
    gP0 aesenc a 0xDEADBEEFCAFEBABE 0x12345678 = a' ∧ fP0 0xDEADBEEFCAFEBABE a' 0x12345678 = 0x4D7DB71EA6E2CE35 ∧
    hP0 a' 0x12345678 = 1078 := by decide +kernel

/-- V-RB-2, V-RB-3: first and last entries for the seeds 1 and 0xFFFFFFFF. -/
theorem test_gen :
    genP0 1 0 = 0x910A2DEC89025CC1 ∧ genP0 1 2047 = 0x706A09AF31018700 ∧
    genP0 0xFFFFFFFF 0 = 0x73B13BA2AFF181C0 ∧ genP0 0xFFFFFFFF 2047 = 0xDAA7068CC820667F := by decide +kernel

/-- V-PAD-1 to V-PAD-4. -/
theorem test_pad :
    padP0 [] = 0x00000080 ∧ padP0 [0x61] = 0x00008061 ∧ padP0 [0x61, 0x62] = 0x00806261 ∧
    padP0 [0x61, 0x62, 0x63] = 0x80636261 := by decide

/-- V-MIX-2: an index visited twice reads what the first visit wrote. -/
theorem test_mix_revisits :
    (mix rfsP0 0x0000013B { acc := 0, csum := 0, table := table0 }).map
      (fun m => (m.csum, m.table.read 1431, m.table.read 457, m.acc)) =
    some (0x26E81597, some 0x5F4100534AF1B4AA, some 0x631981E5814F0652,
      ofQ 0x0F54B2A0AA043B0E 0xB484784DC56682D1 0xBF0037DD6117A521 0xCCCD3C7A2F53FAB0) := by decide +kernel

/-! ### Commands, one step each -/

/-- V-RB-1: STATUS, TSEED and the default table after `rbinit 0`. -/
theorem test_rbinit :
    (after (exec .rbinit State.reset)).map (fun t => (t.status, t.tseed, t.table.read 0, t.table.read 2047)) =
    some (0x00000002, 0, some 0xE220A8397B1DCDAF, some 0x28B3BF5520DDDF02) := by decide +kernel

/-- V-ERR-5: RBINIT after a byte. -/
theorem test_rbinit_midhash :
    (after (exec .rbinit (midHash 1 1 0x61))).map (fun t => (t.status, t.errcmd, t.tseed)) =
    some (0x0000041B, 0x00000001, 0) := by decide +kernel

/-- V-INIT-1: INIT with and without a table. -/
theorem test_init :
    (after (exec .init loaded)).map (fun t => (t.status, t.len, t.acc, t.csum)) = some (0x00000003, 0, 0, 0) ∧
    (after (exec .init State.reset)).map State.status = some 0x00000001 := by decide +kernel

/-- V-UPD-1: three bytes, no Mix; and V-FIN-7: LEN wraps. -/
theorem test_update_stores :
    (after (exec (.update 2) { opened with arg := 0x00636261 })).map
      (fun t => (t.status, t.len, t.pendingBytes, t.csum, t.acc)) =
      some (0x00000033, 3, [0x61, 0x62, 0x63], 0, 0) ∧
    (after (exec (.update 0) (midHash 0 0xFFFFFFFFFFFFFFFF 0x61))).map State.len = some 0 := by decide +kernel

/-- V-UPD-2: the fourth byte mixes the unit of "abcd". -/
theorem test_update_mixes :
    (after (exec (.update 0) (midHash 3 3 0x00000064))).map
      (fun t => (t.status, t.len, t.csum, t.table.read 525, t.acc)) =
    some (0x00000003, 4, 0xCCC6120D, some 0xD8E911311565DF60,
      ofQ 0x1763DEE43C9A7A97 0x6F5F94D6320E3CAF 0x07A7A2B2D6B5981D 0x113F284CC81676DF) := by decide +kernel

/-- V-FIN-3: FINAL of "abc", and P1's end state. -/
theorem test_final :
    (after (exec .final (midHash 3 3 0x00636261))).map
      (fun t => (t.status, t.len, t.csum, t.table.read 1132, t.digest)) =
    some (0x00000006, 3, 0x6945B741, some 0x7DCDE9170B53EDEF,
      ofQ 0xC39B1B34C2DF25B2 0x00DD908B1E7019E9 0x38A9956B03E2C14E 0x5468AC88EE802C99) := by decide +kernel

/-- V-ERR-1, V-ERR-2, V-ERR-7: the order of the checks. -/
theorem test_checks :
    (after (exec (.update 0) State.reset)).map (fun t => (t.status, t.errcmd)) = some (0x00000208, 0x00000003) ∧
    (after (exec .final State.reset.openContext)).map (fun t => (t.status, t.errcmd)) =
      some (0x00000309, 0x00000004) ∧
    (after (exec .final { loaded with dvalid := true })).map State.status = some 0x0000020E := by decide +kernel

/-- V-ERR-3, V-ERR-4, V-ERR-11: illegal words written to CMD. -/
theorem test_illegal_words :
    (after (step (sending [.write 0 4 0x00000000] State.reset))).map (fun t => (t.status, t.errcmd)) =
      some (0x00000108, 0x00000000) ∧
    (after (step (sending [.write 0 4 0x00000102] loaded))).map (fun t => (t.status, t.errcmd)) =
      some (0x0000010A, 0x00000102) ∧
    (after (step (sending [.write 0 4 0x00000105] State.reset))).map (fun t => (t.status, t.errcmd)) =
      some (0x00000108, 0x00000105) := by decide +kernel

/-- R40: the first step after reset runs the word placed at CMD. -/
theorem test_fetch_word :
    (after (step (State.reset.withFetchWord 32 0x00000002))).map State.status = some 0x00000001 ∧
    (after (step (State.reset.withFetchWord 32 0x00000104))).map State.errcmd = some 0x00000104 := by decide +kernel

/-- V-RB-1: the reads of T[0] through the window. -/
theorem test_window :
    (after (step (sending [.read 0x4000 4] loaded))).map State.replies = some [0x7B1DCDAF] ∧
    (after (step (sending [.read 0x4004 4] loaded))).map State.replies = some [0xE220A839] := by decide +kernel

/-- R197: the rendering of the digest of "abc" begins "b225dfc2". -/
theorem test_render :
    ((renderDigest (ofQ 0xC39B1B34C2DF25B2 0x00DD908B1E7019E9 0x38A9956B03E2C14E 0x5468AC88EE802C99)).toList.take 8) =
      "b225dfc2".toList := by decide +kernel

/-! ### Witnesses for the hypotheses of the statements -/

/-- A context on a table of zeros, with `pcount` pending bytes. -/
def ready (pcount : BitVec 2) (arg : Word32) : State :=
  { State.reset with
    table := Memory.fill fun _ => 0, tvalid := true, ctx := true, acc := 0, csum := 0
    p0 := 0x61, p1 := 0x62, p2 := 0x63, pcount := pcount, len := pcount.setWidth 64, arg := arg }

/-- A table with no context on it. -/
def idleTable : State :=
  { State.reset with table := Memory.fill fun _ => 0, tvalid := true }

/-- A faulted engine. -/
def faulted : State := State.reset.raise .illegalCmd 0x00000400

theorem ready_ready (pcount : BitVec 2) (arg : Word32) : (ready pcount arg).Ready :=
  ⟨rfl, rfl, rfl, Memory.fill_full _⟩

/-- An illegal word written to CMD with ERR = 0, and a word written with ERR = 1. -/
theorem test_w_LegalWordsAreTheSeven :
    (sending [.write 0x0000 4 0x80000004] State.reset).pending = [.write 0x0000 4 0x80000004] ∧
    (sending [.write 0x0000 4 0x80000004] State.reset).err = false ∧ legal 0x80000004 = false ∧
    (sending [.write 0x0000 4 0x80000004] faulted).pending = [.write 0x0000 4 0x80000004] ∧
    (sending [.write 0x0000 4 0x80000004] faulted).err = true := by decide

/-- A legal word, an illegal one, the ends of the reserved opcodes, and a stray NBM1. -/
theorem test_w_OneRowPerLegalWord :
    decode 0x00000303 = .ok (.update 3) ∧ legal 0x00000005 = false ∧
    (0x00000000 : Word32).extractLsb' 0 8 = 0 ∧ 5 ≤ ((0x00000005 : Word32).extractLsb' 0 8).toNat ∧
    5 ≤ ((0x000000FF : Word32).extractLsb' 0 8).toNat ∧
    (0x00000102 : Word32).extractLsb' 0 8 ≠ 3 ∧ (0x00000102 : Word32).extractLsb' 8 2 ≠ 0 := by decide

/-- Every command. -/
theorem test_w_StepRunsDecodedCommand :
    ∀ i : Instr, ∃ s : State, s.pending = [.write 0x0000 4 (encode i)] ∧
      (i = .rbinit → decode 0x00000001 = .ok i) ∧ (i = .init → decode 0x00000002 = .ok i) ∧
      (i = .update 3 → decode 0x00000303 = .ok i) ∧ (i = .final → decode 0x00000004 = .ok i) :=
  fun i => ⟨sending [.write 0x0000 4 (encode i)] State.reset, rfl, by rintro rfl; rfl, by rintro rfl; rfl,
    by rintro rfl; rfl, by rintro rfl; rfl⟩

theorem test_w_IllegalWordRaisesIllegalCmd :
    (sending [.write 0x0000 4 0x00000400] State.reset).pending = [.write 0x0000 4 0x00000400] ∧
    (sending [.write 0x0000 4 0x00000400] State.reset).err = false ∧ legal 0x00000400 = false := by decide

theorem test_w_CommandsIgnoredWhileFaulted :
    (sending [.write 0x0000 4 0x00000001] faulted).pending = [.write 0x0000 4 0x00000001] ∧
    (sending [.write 0x0000 4 0x00000001] faulted).err = true := by decide

/-- With a write of ARG, whose value changes, and with a command. -/
theorem test_w_OnlyArgChangesWhileFaulted :
    (∃ s t : State, s.err = true ∧ s.pending.head? ≠ some .reset ∧ step s = .next t ∧ t.arg ≠ s.arg) ∧
    ∃ s t : State, s.err = true ∧ s.pending.head? ≠ some .reset ∧ step s = .next t ∧ t.arg = s.arg :=
  ⟨⟨sending [.write 0x0004 4 0x1234] faulted, _, rfl, by decide, rfl, by decide⟩,
    ⟨sending [.write 0x0000 4 0x00000001] faulted, _, rfl, by decide, rfl, rfl⟩⟩

theorem test_w_IdleStepHoldsState : State.reset.pending = [] := rfl

theorem test_w_ArgWrittenByHostAlone :
    (sending [.write 0x0004 4 7] State.reset).pending = [.write 0x0004 4 7] ∧
    (sending [.read 0x0004 4] State.reset).pending = [.read 0x0004 4] ∧
    ∃ t, exec .init State.reset = .next t := ⟨rfl, rfl, _, rfl⟩

/-- The first and the last offset that ignores writes. -/
theorem test_w_WritesElsewhereIgnored :
    (sending [.write 0x0008 4 7] State.reset).pending = [.write 0x0008 4 7] ∧ 0x0008 % 4 = 0 ∧ 0x0008 < 0x8000 ∧
    (sending [.write 0x7FFC 4 7] State.reset).pending = [.write 0x7FFC 4 7] ∧ 0x7FFC % 4 = 0 ∧ 0x7FFC < 0x8000 := by
  decide

/-- The reserved ranges at their ends, the last offset of the map and the first outside it. -/
theorem test_w_RegisterMapDecoding :
    regAt 0x0014 = some .reserved ∧ regAt 0x001C = some .reserved ∧ regAt 0x0020 = some (.digest 0) ∧
    regAt 0x003C = some (.digest 7) ∧ regAt 0x0040 = some .reserved ∧ regAt 0x3FFC = some .reserved ∧
    regAt 0x4000 = some (.twinLo 0) ∧ regAt 0x7FFC = some (.twinHi 2047) ∧ regAt 0x8000 = none := by decide

/-- Every code of STATUS. -/
theorem test_w_StatusFields :
    State.reset.errcode = .none ∧ (State.reset.raise .illegalCmd 0).errcode = .illegalCmd ∧
    (State.reset.raise .noContext 0).errcode = .noContext ∧ (State.reset.raise .noTable 0).errcode = .noTable ∧
    (State.reset.raise .rbinitMidhash 0).errcode = .rbinitMidhash := by decide

/-- Each clause, the reserved ranges at their ends. -/
theorem test_w_ReadsReturnRegisters :
    ∀ off ∈ [0x0000, 0x0008, 0x000C, 0x0010, 0x0014, 0x001C, 0x0040, 0x3FFC],
      (sending [.read off 4] State.reset).pending = [.read off 4] ∧ off % 4 = 0 ∧
      (off = 0x0000 ∨ off = 0x0008 ∨ off = 0x000C ∨ off = 0x0010 ∨ 0x0014 ≤ off ∧ off ≤ 0x001F ∨
        0x0040 ≤ off ∧ off ≤ 0x3FFF) := by decide

/-- DIGEST0 and DIGEST7, before and after a FINAL. -/
theorem test_w_DigestReads :
    ∀ k ∈ [(0 : BitVec 3), 7],
      (sending [.read (0x0020 + 4 * k.toNat) 4] State.reset).pending = [.read (0x0020 + 4 * k.toNat) 4] ∧
      State.reset.finalDone = false ∧ (State.reset.publish 0).finalDone = true := by decide

/-- T[0] and T[2047], low and high half, with and without a table. -/
theorem test_w_WindowReads :
    ∀ i ∈ [(0 : Index), 2047],
      (sending [.read (0x4000 + 8 * i.toNat) 4] idleTable).pending = [.read (0x4000 + 8 * i.toNat) 4] ∧
      (sending [.read (0x4004 + 8 * i.toNat) 4] idleTable).pending = [.read (0x4004 + 8 * i.toNat) 4] ∧
      idleTable.tvalid = true ∧ idleTable.table.read i.toNat = some 0 ∧ State.reset.tvalid = false := by
  intro i _
  refine ⟨rfl, rfl, rfl, ?_, rfl⟩
  show (Memory.fill fun _ => 0).read i.toNat = some 0
  rw [Memory.read_fill, if_pos (index_lt i)]

theorem test_w_ReadsLeaveEngineAlone :
    ∃ s t : State, s.pending = [.read 0x0008 4] ∧ step s = .next t :=
  ⟨sending [.read 0x0008 4] State.reset, _, rfl, rfl⟩

/-- A narrow access, a misaligned one, and the first offset outside the map. -/
theorem test_w_AccessesOutsideInterfaceRefused :
    (sending [.write 0x0004 1 7] State.reset).pending = [.write 0x0004 1 7] ∧ 1 ≠ 4 ∧
    (sending [.read 0x0002 4] State.reset).pending = [.read 0x0002 4] ∧ 0x0002 % 4 ≠ 0 ∧
    (sending [.read 0x8000 4] State.reset).pending = [.read 0x8000 4] ∧ 0x8000 % 4 = 0 := by decide

theorem test_w_ResetEventValues : (sending [.reset] faulted).pending = [.reset] := rfl

/-- RBINIT in mid-hash, and where it loads the table: with no context, and in one that has taken no byte. -/
theorem test_w_RbinitLoadsTable :
    ((ready 1 0).err = false ∧ (ready 1 0).ctx = true ∧ (ready 1 0).len ≠ 0) ∧
    (State.reset.err = false ∧ ¬(State.reset.ctx = true ∧ State.reset.len ≠ 0)) ∧
    ((ready 0 0).err = false ∧ ¬((ready 0 0).ctx = true ∧ (ready 0 0).len ≠ 0)) :=
  ⟨⟨rfl, rfl, by decide⟩, ⟨rfl, by decide⟩, ⟨rfl, by decide⟩⟩

theorem test_w_RbinitDependsOnSeedAlone :
    State.reset.err = false ∧ (ready 0 0).err = false ∧ (State.reset.ctx = false ∨ State.reset.len = 0) ∧
    ((ready 0 0).ctx = false ∨ (ready 0 0).len = 0) ∧ State.reset.arg = (ready 0 0).arg :=
  ⟨rfl, rfl, .inl rfl, .inr rfl, rfl⟩

theorem test_w_FillIsTheWriteLoop : Memory.wf [(2047, 5)] := by decide

theorem test_w_GenClosedAndSequential :
    ∃ x z y : Word64, x = (1 : Word32).setWidth 64 + ((2047 : Index).setWidth 64 + 1) * 0x9E3779B97F4A7C15 ∧
      z = (x ^^^ (x >>> 30)) * 0xBF58476D1CE4E5B9 ∧ y = (z ^^^ (z >>> 27)) * 0x94D049BB133111EB :=
  ⟨_, _, _, rfl, rfl, rfl⟩

/-- Equal entries, and the ends of the range of k. -/
theorem test_w_SeedSeparation :
    genP0 0xFFFFFFFF 2047 = genP0 0xFFFFFFFF 2047 ∧ 1 < 2048 ∧ 1 ≤ 1 ∧ 2047 < 2048 ∧ 1 ≤ 2047 := by decide

theorem test_w_InitOpensContext : State.reset.err = false ∧ State.reset.errcode = .none := by decide

/-- Three bytes into an empty buffer, the most that store without a Mix. -/
theorem test_w_UpdateStoresWithoutMix :
    (ready 0 0x00636261).Ready ∧
    ((ready 0 0x00636261).pendingBytes ++ argBytes 2 (ready 0 0x00636261).arg).length ≤ 3 :=
  ⟨ready_ready .., by decide⟩

/-- A unit with nothing over, and four bytes onto three, which leave three. -/
theorem test_w_UpdateMixesOnce :
    (ready 3 0x00000064).Ready ∧
    (ready 3 0x00000064).pendingBytes ++ argBytes 0 (ready 3 0x00000064).arg = [0x61, 0x62, 0x63, 0x64] ∧
    (ready 3 0x67666564).Ready ∧
    (ready 3 0x67666564).pendingBytes ++ argBytes 3 (ready 3 0x67666564).arg =
      [0x61, 0x62, 0x63, 0x64, 0x65, 0x66, 0x67] :=
  ⟨ready_ready .., by decide, ready_ready .., by decide⟩

/-- Both commands, with no context, and with one but no table. -/
theorem test_w_UpdateAndFinalChecks :
    ((∃ nbm1, Instr.update 3 = .update nbm1) ∨ Instr.update 3 = .final) ∧
    ((∃ nbm1, Instr.final = .update nbm1) ∨ Instr.final = .final) ∧
    State.reset.err = false ∧ State.reset.ctx = false ∧ State.reset.openContext.err = false ∧
    State.reset.openContext.ctx = true ∧ State.reset.openContext.tvalid = false :=
  ⟨.inl ⟨3, rfl⟩, .inr rfl, rfl, rfl, rfl, rfl, rfl⟩

/-- UPDATE of one byte, with other bytes above it; INIT. -/
theorem test_w_CommandsReadTheirBytesOfArg :
    (∃ t, exec (.update 0) (ready 0 0x00000061) = .next t) ∧
    (0xAAAAAA61 : Word32).toNat % 2 ^ (8 * ((0 : BitVec 2).toNat + 1)) =
      (ready 0 0x00000061).arg.toNat % 2 ^ (8 * ((0 : BitVec 2).toNat + 1)) ∧
    ∃ t, exec .init (ready 0 0) = .next t :=
  ⟨⟨_, rfl⟩, by decide, _, rfl⟩

/-- Bytes fed, and a grouping run after INIT. -/
theorem test_w_LenCountsBytes :
    (∃ t, feed rfsP0 [0x61, 0x62, 0x63] (ready 0 0) = some t) ∧
    ∃ t u, idleTable.err = false ∧ idleTable.tvalid = true ∧ idleTable.table.full ∧ exec .init idleTable = .next t ∧
      runAccesses (groupAccesses [(2, 0x00636261)]) t = .next u :=
  ⟨⟨_, rfl⟩, _, _, rfl, rfl, Memory.fill_full _, rfl, rfl⟩

/-- Five bytes: a unit and one byte over. -/
theorem test_w_UnitSequence :
    (ready 0 0).pcount = 0 ∧ ∃ t, feed rfsP0 [0x61, 0x62, 0x63, 0x64, 0x65] (ready 0 0) = some t :=
  ⟨rfl, feed_of_full (Memory.fill_full _) _⟩

/-- V-UPD-5: "abcd" as one UPDATE and as two; a STATUS read and an ARG write. -/
theorem test_w_StreamingEquivalence :
    (ready 0 0).Ready ∧ groupBytes [(3, 0x64636261)] = groupBytes [(2, 0x00636261), (0, 0x00000064)] ∧
    ∀ a ∈ [readOf .status, writeArg 7], a = readOf .status ∨ ∃ v, a = writeArg v :=
  ⟨ready_ready .., by decide, by
    intro a h
    rcases List.mem_pair.1 h with h | h
    · exact .inl h
    · exact .inr ⟨7, h⟩⟩

theorem test_w_FinalPublishesDigest : (ready 3 0).Ready := ready_ready ..

theorem test_w_PadUnit :
    [(0x61 : Byte), 0x62, 0x63].length ≤ 3 ∧ padP0 [0x61, 0x62, 0x63] = padP0 [0x61, 0x62, 0x63] := by decide

theorem test_w_ContextClosedAfterFinal : (ready 3 0).Ready ∧ ∃ t, exec .final (ready 3 0) = .next t := by
  refine ⟨ready_ready .., ?_⟩
  obtain ⟨m, hm⟩ := mixUnits_of_full (p := rfsP0) (m := (ready 3 0).mixState) (Memory.fill_full _)
    (finalUnits rfsP0 (ready 3 0))
  exact ⟨((ready 3 0).putMix m).publish m.acc, by
    show orTableFault (((ready 3 0).mixUnits rfsP0 _).map fun t => t.publish (rfsP0.digestOf t.acc)) = _
    rw [State.mixUnits, hm]; rfl⟩

theorem test_w_HashOfAnyGrouping :
    idleTable.err = false ∧ idleTable.tvalid = true ∧ idleTable.table.full := ⟨rfl, rfl, Memory.fill_full _⟩

/-- With a table, and without one. -/
theorem test_w_HashExtOnTheTable :
    loaded.table = Memory.fill (genP0 0) ∧ (idleTable.err = false ∧ idleTable.tvalid = true ∧ idleTable.table.full) ∧
    State.reset.err = false ∧ State.reset.tvalid = false :=
  ⟨rfl, ⟨rfl, rfl, Memory.fill_full _⟩, rfl, rfl⟩

/-- With no context, in one that has taken no byte, and in one that has taken a byte. -/
theorem test_w_SeededHash :
    (State.reset.err = false ∧ State.reset.ctx = false) ∧ ((ready 0 0).err = false ∧ (ready 0 0).len = 0) ∧
    (ready 1 0).err = false ∧ (ready 1 0).ctx = true ∧ (ready 1 0).len ≠ 0 :=
  ⟨⟨rfl, rfl⟩, ⟨rfl, rfl⟩, rfl, rfl, by decide⟩

theorem test_w_MixIsFourIterations : idleTable.mixState.table.full := Memory.fill_full _

/-- A Mix that completes, an index it does not visit, and the range of k. -/
theorem test_w_MixWritesVisitedEntriesOnly :
    (∃ m', mix rfsP0 0x64636261 idleTable.mixState = some m') ∧
    ∀ k < rfsP0.loops, ∀ w, walk rfsP0 (rfsP0.crc idleTable.mixState.csum 0) k (mixStart rfsP0 0 idleTable.mixState) = some w →
      w.idx.toNat ≠ 2048 :=
  ⟨mix_of_full (Memory.fill_full _) _, fun _ _ w _ => by have := w.idx.isLt; omega⟩

/-- The fourth byte of "abcd" (V-MIX-1): an entry no iteration selects, and the last iteration, which is the last to select
its entry; RBINIT; a fault; and a step that changes T. -/
theorem test_w_TableContainment :
    (∃ t, exec .rbinit State.reset = .next t ∧ t.err = false) ∧
    (∃ t, exec (.update 0) State.reset = .next t ∧ t.err = true) ∧
    (∃ t, exec (.update 0) (ready 3 0x64) = .next t ∧ t.err = false) ∧
    (∀ j n c w, n < 4 → iterationAt (unitsOf (.update 0) (ready 3 0x64)) (ready 3 0x64).mixState j n = some (c, w) →
      w.idx.toNat ≠ 2048) ∧
    (iterationAt (unitsOf (.update 0) (midHash 3 3 0x64)) (midHash 3 3 0x64).mixState 0 3).map
      (fun x => (x.1, x.2.idx)) = some (0xCCC6120D, 429) ∧
    (∀ j' n' c' w', n' < 4 → 0 < j' ∨ 0 = j' ∧ 3 < n' →
      iterationAt (unitsOf (.update 0) (midHash 3 3 0x64)) (midHash 3 3 0x64).mixState j' n' = some (c', w') →
      w'.idx.toNat ≠ 429) ∧
    ∃ t, step (sending [.write 0x0000 4 0x00000001] State.reset) = .next t ∧ t.table ≠ State.reset.table := by
  refine ⟨⟨_, rfl, rfl⟩, ⟨_, rfl, rfl⟩, ?_, fun _ _ _ w _ _ => ?_, by decide +kernel, fun j' n' c' w' hn hj h => ?_,
    _, rfl, ?_⟩
  · obtain ⟨t, ht⟩ := feed_of_full (p := rfsP0) (s := ready 3 0x64) (Memory.fill_full _) (argBytes 0 0x64)
    refine ⟨t, by show orTableFault (feed rfsP0 (argBytes 0 0x64) (ready 3 0x64)) = _; rw [ht]; rfl, ?_⟩
    rw [feed_frame ht]; rfl
  · have := w.idx.isLt; omega
  · obtain ⟨j, rfl⟩ : ∃ j, j' = j + 1 := ⟨j' - 1, by omega⟩
    have hu : (unitsOf (.update 0) (midHash 3 3 0x64))[j + 1]? = none := rfl
    rw [iterationAt, hu] at h
    cases h
  · intro h
    have := Memory.fill_full (genP0 0) 0 (by decide)
    rw [show Memory.fill (genP0 0) = _ from h] at this
    simp [State.reset, State.resetWith] at this

theorem test_w_FixtureOnTheEngine : State.reset.err = false ∧ State.reset.ctx = false := ⟨rfl, rfl⟩

/-- The last lane of each width, and the last byte. -/
theorem test_w_LaneViewsAgree :
    ∀ n ∈ [1, 2, 4, 8], (n = 1 ∨ n = 2 ∨ n = 4 ∨ n = 8) ∧ 32 / n - 1 < 32 / n ∧ 31 / n = 32 / n - 1 := by decide

/-- The last column, row and byte of a block (AesRound, SboxIsInverseThenAffine). -/
theorem test_w_AesRound : 3 < 4 ∧ 15 < 16 ∧ 3 + 4 * 3 = 15 := by decide

/-- An output block for a given round, and both ends of the rotation amount. -/
theorem test_w_CombineWriteBackIndex :
    (∃ o : Block, o = aesenc (rotl64 (accQ 0 1 ^^^ 5) ((0x3F : Word32).toNat % 64) ++ (accQ 0 0 + 5)) (accQ 0 3 ++ accQ 0 2)) ∧
    0 < 64 ∧ 63 < 64 := ⟨⟨_, rfl⟩, by decide, by decide⟩

theorem test_w_WorkedMix : (3, (429 : Index)) ∈ [(1, (514 : Index)), (2, 306), (3, 429)] := by decide

/-- Reset, and a state inside a context, meet the invariant. -/
theorem test_w_InvariantKept :
    State.reset.Inv ∧ (ready 3 0).Inv ∧ ∃ t, step (ready 3 0) = .next t :=
  ⟨by constructor <;> decide,
    ⟨Memory.fill_wf _, fun _ => Memory.fill_full _, by simp [ready], by decide, by decide, by decide, by decide,
      by decide, by decide, by decide, by decide⟩,
    _, rfl⟩

/-- A read of DIGEST7 and of T[2047] before they have a value, and an access that is refused. -/
theorem test_w_OnlyHostAccessesStopARun :
    (sending [.read 0x003C 4] State.reset).Inv ∧
    step (sending [.read 0x003C 4] State.reset) = .fault .digestUnspecified ∧
    step (sending [.read 0x7FFC 4] State.reset) = .fault .windowUnspecified ∧
    step (sending [.read 0x8000 4] State.reset) = .refused .accessOutsideMap :=
  ⟨by constructor <;> decide, rfl, rfl, rfl⟩

/-- Each fault of a CMD write, and a write that does not fault. -/
theorem test_w_FaultsArePrecise :
    (∃ t, (sending [.write 0 4 5] State.reset).err = false ∧ step (sending [.write 0 4 5] State.reset) = .next t ∧
      t.err = true ∧ t.errcode = .illegalCmd) ∧
    (∃ t, (sending [.write 0 4 1] (ready 1 0)).err = false ∧ step (sending [.write 0 4 1] (ready 1 0)) = .next t ∧
      t.err = true ∧ t.errcode = .rbinitMidhash) ∧
    (∃ t, step (sending [.write 0 4 4] State.reset) = .next t ∧ t.err = true ∧ t.errcode = .noContext) ∧
    (∃ t, step (sending [.write 0 4 3] State.reset.openContext) = .next t ∧ t.err = true ∧ t.errcode = .noTable) ∧
    ∃ t, step (sending [.write 0 4 2] State.reset) = .next t ∧ t.err = false :=
  ⟨⟨_, rfl, rfl, rfl, rfl⟩, ⟨_, rfl, rfl, rfl, rfl⟩, ⟨_, rfl, rfl, rfl⟩, ⟨_, rfl, rfl, rfl⟩, _, rfl, rfl⟩

theorem test_w_LifeCycle :
    (sending [.write 0x0000 4 0x00000005] State.reset).Inv ∧ legal 0x00000005 = false ∧
    (sending [.write 0x0000 4 0x00000005] State.reset).pending = [.write 0x0000 4 0x00000005] ∧
    (sending [.reset] State.reset).pending = [.reset] :=
  ⟨by constructor <;> decide, by decide, rfl, rfl⟩

/-- Two states that differ in every register reset leaves unspecified. -/
theorem test_w_UnspecifiedBitsNeverSeen :
    ∃ s t : State, s.AgreeWhereDefined t ∧ s.acc ≠ t.acc ∧ s.csum ≠ t.csum ∧ s.len ≠ t.len ∧ s.digest ≠ t.digest ∧
      s.p0 ≠ t.p0 :=
  ⟨State.reset, { State.reset with acc := 0, csum := 0, len := 0, digest := 0, p0 := 0 },
    by constructor <;> decide, by decide, by decide, by decide, by decide, by decide⟩

theorem test_w_CommandFrames :
    (∃ t, exec .rbinit State.reset = .next t) ∧ (∃ t, exec .init State.reset = .next t) ∧
    (∃ t, exec (.update 2) (ready 0 0) = .next t) ∧ ∃ t, exec .final (ready 3 0) = .next t :=
  ⟨⟨_, rfl⟩, ⟨_, rfl⟩, ⟨_, rfl⟩, test_w_ContextClosedAfterFinal.2⟩

/-- Two engines; the second steps. -/
theorem test_w_EnginesIndependent :
    ∃ p q : Platform, p.length = 2 ∧ p.stepEngine 1 = .next q ∧ q ≠ p :=
  ⟨[{ base := 0, engine := State.reset }, { base := 0x8000, engine := sending [.write 0x0000 4 0x00000002] State.reset }],
    _, rfl, rfl, by decide⟩

/-! ### The model's own definitions -/

/-- Reset's table is canonical, and a table with an index out of order or out of range is not. -/
theorem test_memory_wf :
    State.reset.table.wf ∧ ¬Memory.wf [(1, 0), (1, 0)] ∧ ¬Memory.wf [(2048, 0)] := by decide

/-- R196: the first round of the fixture on the pattern m[j] = j XORs with 0, and the overwrite keeps bytes 32 to 79. -/
theorem test_fixture_steps :
    countIn 0 specPattern = specPattern ∧ (countIn 0x1FF specPattern)[79] = 0xB0 ∧
    (overwriteHead 0x63 specPattern)[0] = 0x63 ∧ (overwriteHead 0x63 specPattern)[31] = 0 ∧
    (overwriteHead 0x63 specPattern)[32] = 32 := by decide +kernel

/-- R222: a reset of one engine leaves the other alone; a reset of the platform reaches both. -/
theorem test_platform_reset :
    (Platform.resetEngine 1 0 [{ base := 0, engine := State.reset },
      { base := 0x8000, engine := sending [.read 0x0008 4] State.reset }]).map (fun e => e.engine.pending) =
      [[], [.reset, .read 0x0008 4]] ∧
    (Platform.postReset (fun _ => 1) [{ base := 0, engine := State.reset },
      { base := 0x8000, engine := sending [.read 0x0008 4] State.reset }]).map (fun e => e.engine.pending) =
      [[.reset], [.read 0x0008 4, .reset]] := by decide

/-- R221, R66: an access goes to the engine whose map holds its address, at its offset there. -/
theorem test_platform_post :
    (Platform.post (.write 0x8004 4 7)
      [{ base := 0, engine := State.reset }, { base := 0x8000, engine := State.reset }]).map
      (fun e => e.engine.pending) = [[], [.write 0x0004 4 7]] := by decide

end Sys2Proof.Tests
end

section
/-! What a step and each of its parts can answer, said once: the layer that the statements of this family cite. -/

namespace Sys2Proof.Machine

variable {s t : State} {rest : List Access}

/-! ### The register map -/

/-- DIGESTk is at one offset (R41). -/
theorem regAt_eq_digest {off : Nat} {k : BitVec 3} (hm : off % 4 = 0) (h : regAt off = some (.digest k)) :
    off = 0x0020 + 4 * k.toNat := by
  unfold regAt at h; repeat' split at h
  all_goals simp at h
  subst h
  rw [BitVec.toNat_ofNat]; omega

/-- The window lies at 0x4000 to 0x7FFF (R41). -/
theorem regAt_eq_twin {off : Nat} {i : Index} (h : regAt off = some (.twinLo i) ∨ regAt off = some (.twinHi i)) :
    0x4000 ≤ off ∧ off < 0x8000 := by
  have hw : off < 0x8000 := by
    by_contra hn
    simp [regAt_eq_none.2 (show Config.windowBytes ≤ off from Nat.le_of_not_lt hn)] at h
  refine ⟨?_, hw⟩
  by_contra hn
  unfold regAt at h
  rw [if_neg (by unfold Config.windowBytes; omega), if_neg hn] at h
  repeat' split at h
  all_goals simp at h

/-! ### Answers of an access -/

/-- An access that is not refused reaches its register (R62, R223). -/
theorem onReg_reaches {off bytes : Nat} {k : Reg → Result} {x : Result} (h : onReg off bytes k = x)
    (hx : ∀ e, x ≠ .refused e) : bytes = 4 ∧ off % 4 = 0 ∧ ∃ r, regAt off = some r ∧ k r = x := by
  obtain ⟨rfl, -⟩ | ⟨rfl, -⟩ | ⟨rfl, -⟩ | h := onReg_inv h
  · exact absurd rfl (hx _)
  · exact absurd rfl (hx _)
  · exact absurd rfl (hx _)
  · exact h

theorem access_write {off : Nat} {r : Reg} (hm : off % 4 = 0) (hr : regAt off = some r) (v : Word32) (s : State) :
    access (.write off 4 v) s = writeReg r v s := onReg_eq hm hr _

theorem access_read {off : Nat} {r : Reg} (hm : off % 4 = 0) (hr : regAt off = some r) (s : State) :
    access (.read off 4) s = readAccess r s := onReg_eq hm hr _

theorem readAccess_ok {r : Reg} {v : Word32} (h : readReg r s = .ok v) : readAccess r s = .next (s.reply v) := by
  simp [readAccess, h]

theorem readAccess_error {r : Reg} {e : Fault} (h : readReg r s = .error e) : readAccess r s = .fault e := by
  simp [readAccess, h]

theorem readAccess_next {r : Reg} (h : readAccess r s = .next t) : ∃ v, t = s.reply v := by
  cases hr : readReg r s with
  | ok v => rw [readAccess_ok hr] at h; cases h; exact ⟨v, rfl⟩
  | error e => rw [readAccess_error hr] at h; cases h

theorem readAccess_fault {r : Reg} {e : Fault} (h : readAccess r s = .fault e) : readReg r s = .error e := by
  cases hr : readReg r s with
  | ok v => rw [readAccess_ok hr] at h; cases h
  | error e => rw [readAccess_error hr] at h; cases h; rfl

theorem readAccess_not_refused (r : Reg) (s : State) (x : Refusal) : readAccess r s ≠ .refused x := by
  cases hr : readReg r s <;> simp [readAccess, hr]

/-- While ERR = 1 a command has no effect (R205). -/
theorem exec_err (i : Instr) (h : s.err = true) : exec i s = .next s := by
  cases i <;> exact unlessFaulted_err h _

/-- A write of a legal word to CMD is its command (R40, R205). -/
theorem writeCmd_eq_exec {w : Word32} {i : Instr} (hd : decode w = .ok i) (s : State) : writeCmd w s = exec i s := by
  cases he : s.err
  · exact writeCmd_ok he hd
  · rw [writeCmd_err w he, exec_err i he]

/-- A write of CMD runs a command, or is ignored, or raises ILLEGAL_CMD (R40, R83, R205). -/
theorem writeCmd_cases (w : Word32) (s : State) :
    (∃ i, decode w = .ok i ∧ writeCmd w s = exec i s) ∨
    writeCmd w s = .next s ∨ writeCmd w s = .next (s.raise .illegalCmd w) := by
  cases hd : decode w with
  | ok i => exact .inl ⟨i, rfl, writeCmd_eq_exec hd s⟩
  | error e =>
    cases he : s.err
    · exact .inr (.inr (writeCmd_illegal he hd))
    · exact .inr (.inl (writeCmd_err w he))

/-- A write of a register issues a command, sets ARG, or is ignored (R41). -/
theorem writeReg_cases (r : Reg) (v : Word32) (s : State) :
    (r = .cmd ∧ writeReg r v s = writeCmd v s) ∨ (r = .arg ∧ writeReg r v s = .next (s.setArg v)) ∨
    writeReg r v s = .next s := by
  by_cases hc : r = .cmd
  · subst hc; exact .inl ⟨rfl, rfl⟩
  by_cases ha : r = .arg
  · subst ha; exact .inr (.inl ⟨rfl, rfl⟩)
  · exact .inr (.inr (writeReg_ignored v hc ha))

/-- Everything a step that answers a next state can have done: it was idle, reset the engine, ran a command, raised
ILLEGAL_CMD, set ARG, ignored a write, or replied to a read. -/
theorem step_next (h : step s = .next t) :
    (s.pending = [] ∧ t = s) ∨
    ∃ rest,
      (s.pending = .reset :: rest ∧ t = (s.withPending rest).platformReset) ∨
      (∃ w i, s.pending = .write 0x0000 4 w :: rest ∧ decode w = .ok i ∧ exec i (s.withPending rest) = .next t) ∨
      (∃ w, t = (s.withPending rest).raise .illegalCmd w) ∨
      (∃ v, t = (s.withPending rest).setArg v) ∨
      t = s.withPending rest ∨
      ∃ v, t = (s.withPending rest).reply v := by
  cases hp : s.pending with
  | nil => rw [step_nil hp] at h; cases h; exact .inl ⟨rfl, rfl⟩
  | cons a rest =>
    rw [step_cons hp] at h
    refine .inr ⟨rest, ?_⟩
    cases a with
    | reset => cases h; exact .inl ⟨rfl, rfl⟩
    | read off bytes =>
      obtain ⟨-, -, r, -, hr⟩ := onReg_reaches h (by simp)
      · exact .inr (.inr (.inr (.inr (.inr (readAccess_next hr)))))
    | write off bytes v =>
      obtain ⟨rfl, -, r, hoff, hr⟩ := onReg_reaches h (by simp)
      obtain ⟨rfl, hw⟩ | ⟨-, hw⟩ | hw := writeReg_cases r v (s.withPending rest)
      · obtain rfl := regAt_eq_cmd hoff
        obtain ⟨i, hd, hc⟩ | hc | hc := writeCmd_cases v (s.withPending rest) <;> rw [hw, hc] at hr
        · exact .inr (.inl ⟨v, i, rfl, hd, hr⟩)
        · cases hr; exact .inr (.inr (.inr (.inr (.inl rfl))))
        · cases hr; exact .inr (.inr (.inl ⟨v, rfl⟩))
      · rw [hw] at hr; cases hr; exact .inr (.inr (.inr (.inl ⟨v, rfl⟩)))
      · rw [hw] at hr; cases hr; exact .inr (.inr (.inr (.inr (.inl rfl))))

end Sys2Proof.Machine
end

section
/-! The invariant: reset meets it, and every step keeps it. -/

namespace Sys2Proof.Machine

variable {p : Config.Profile} {s t : State}

/-- Reset meets the invariant, whatever the draw (R23, R44, R230). -/
theorem State.resetWith_inv (d : ResetDraw) : (State.resetWith d).Inv := by
  constructor <;> simp [Memory.wf]

theorem State.platformReset_inv (s : State) : s.platformReset.Inv :=
  { State.resetWith_inv ResetDraw.named with }

/-- RBINIT on a full canonical table keeps the invariant (R101). -/
theorem State.Inv.loadTable (h : s.Inv) {m : Memory} (hw : m.wf) (hf : m.full) (seed : Word32) :
    (s.loadTable m seed).Inv :=
  { h with
    tableWf := hw
    tableFull := fun _ => hf
    tableEmpty := by simp
    finalOnTable := fun _ => rfl
    lenWithoutTable := by simp }

/-- INIT keeps the invariant (R121). -/
theorem State.Inv.openContext (h : s.Inv) : s.openContext.Inv :=
  { h with
    digestWritten := by simp
    closedWhenValid := by simp
    idlePcount := fun _ => rfl
    pcountOfLen := fun _ => rfl
    lenWithoutTable := fun _ _ => rfl }

/-- LEN modulo 4 counts up with LEN (R30). -/
theorem low2_add_one (x : Word64) : (x + 1).extractLsb' 0 2 = x.extractLsb' 0 2 + 1 := by
  apply BitVec.eq_of_toNat_eq
  simp [BitVec.toNat_add, BitVec.extractLsb'_toNat]

/-- A byte leaves PCOUNT one higher, modulo 4 (R126). -/
theorem updateByte_pcount {b : Byte} (h : updateByte p b s = some t) : t.pcount = s.pcount + 1 := by
  rcases updateByte_eq_some.1 h with ⟨-, rfl⟩ | ⟨hp, m, -, rfl⟩
  · rfl
  · rw [hp]; rfl

/-- A byte adds 1 to LEN (R127). -/
theorem updateByte_len {b : Byte} (h : updateByte p b s = some t) : t.len = s.len + 1 := by
  rcases updateByte_eq_some.1 h with ⟨-, rfl⟩ | ⟨-, m, -, rfl⟩ <;> rfl

/-- A byte taken in a context on a table keeps the invariant (R44, R126). -/
theorem State.Inv.updateByte {b : Byte} (h : s.Inv) (hc : s.ctx = true) (hv : s.tvalid = true)
    (hu : updateByte p b s = some t) : t.Inv := by
  have hw := updateByte_wf hu h.tableWf
  have hf := updateByte_full hu (h.tableFull hv)
  have hp : t.pcount = t.len.extractLsb' 0 2 := by
    rw [updateByte_pcount hu, updateByte_len hu, low2_add_one, h.pcountOfLen hc]
  rw [updateByte_frame hu]
  exact { h with
    tableWf := hw
    tableFull := fun _ => hf
    tableEmpty := by simp [hv]
    idlePcount := by simp [hc]
    pcountOfLen := fun _ => hp
    lenWithoutTable := by simp [hv] }

/-- Bytes taken in a context on a table keep the invariant (R44, R124). -/
theorem State.Inv.feed {bs : List Byte} (h : s.Inv) (hc : s.ctx = true) (hv : s.tvalid = true)
    (hu : feed p bs s = some t) : t.Inv :=
  (feed_induct (P := fun u => u.Inv ∧ u.ctx = true ∧ u.tvalid = true)
    (fun b u v huv ⟨hi, hcu, hvu⟩ => ⟨hi.updateByte hcu hvu huv, by rw [updateByte_frame huv]; exact ⟨hcu, hvu⟩⟩)
    hu ⟨h, hc, hv⟩).1

/-- Publishing a digest after Mix on a table keeps the invariant (R36, R130). -/
theorem State.Inv.publish {m : MixState} (h : s.Inv) (hv : s.tvalid = true) (hw : m.table.wf) (hf : m.table.full)
    (d : Word256) : ((s.putMix m).publish d).Inv :=
  { h with
    tableWf := hw
    tableFull := fun _ => hf
    tableEmpty := by simp [hv]
    digestWritten := fun _ => rfl
    finalOnTable := fun _ => hv
    closedWhenValid := fun _ => rfl
    idlePcount := fun _ => rfl
    pcountOfLen := by simp
    lenWithoutTable := by simp }

/-- Every command keeps the invariant (R44, R233). -/
theorem State.Inv.exec {i : Instr} (h : s.Inv) (he : exec i s = .next t) : t.Inv := by
  cases i with
  | rbinit =>
    obtain ⟨-, rfl⟩ | ⟨-, -, rfl⟩ | ⟨-, -, rfl⟩ := rbinitWith_next he
    · exact h
    · exact h.raise (by simp) _
    · exact h.loadTable (Memory.fill_wf _) (Memory.fill_full _) _
  | init =>
    obtain ⟨-, rfl⟩ | ⟨-, rfl⟩ := execInit_next he
    · exact h
    · exact h.openContext
  | update nbm1 =>
    obtain ⟨-, rfl⟩ | ⟨-, -, rfl⟩ | ⟨-, -, -, rfl⟩ | ⟨-, hc, hv, hf⟩ := updateWith_next he
    · exact h
    · exact h.raise (by simp) _
    · exact h.raise (by simp) _
    · exact h.feed hc hv hf
  | final =>
    obtain ⟨-, rfl⟩ | ⟨-, -, rfl⟩ | ⟨-, -, -, rfl⟩ | ⟨-, -, hv, m, hm, rfl⟩ := finalWith_next he
    · exact h
    · exact h.raise (by simp) _
    · exact h.raise (by simp) _
    · exact h.publish hv (mixUnits_wf hm h.tableWf) (mixUnits_full hm (h.tableFull hv)) _

/-- Every step keeps the invariant (R44). -/
theorem State.Inv.step (h : s.Inv) (hs : step s = .next t) : t.Inv := by
  obtain ⟨-, rfl⟩ | ⟨rest, ⟨-, rfl⟩ | ⟨w, i, -, -, he⟩ | ⟨w, rfl⟩ | ⟨v, rfl⟩ | rfl | ⟨v, rfl⟩⟩ := step_next hs
  · exact h
  · exact State.platformReset_inv _
  · exact (h.withPending rest).exec he
  · exact (h.withPending rest).raise (by simp) w
  · exact (h.withPending rest).setArg v
  · exact h.withPending rest
  · exact (h.withPending rest).reply v

/-- Settles O53: reset meets the invariant, case by case of its fields. -/
theorem resetMeetsInvariant : Obligations.ResetMeetsInvariant :=
  ⟨State.resetWith_inv, State.resetWith_inv _⟩

/-- Settles O52: the invariant of what a step did, by the inversion `step_next` and, for a command, `State.Inv.exec`. -/
theorem invariantKept : Obligations.InvariantKept := fun _ _ hi hs => hi.step hs

end Sys2Proof.Machine
end

section
/-! Noninterference: two states that agree where the spec gives a value answer alike (R45). One rule per named update, then
one per command, then the step. -/

namespace Sys2Proof.Machine

variable {p : Config.Profile} {s t : State}

/-! ### Named updates keep agreement -/

theorem State.AgreeWhereDefined.withPending (h : s.AgreeWhereDefined t) (rest : List Access) :
    (s.withPending rest).AgreeWhereDefined (t.withPending rest) := { h with pending := rfl }

theorem State.AgreeWhereDefined.reply (h : s.AgreeWhereDefined t) (v : Word32) :
    (s.reply v).AgreeWhereDefined (t.reply v) := { h with replies := congrArg (· ++ [v]) h.replies }

theorem State.AgreeWhereDefined.setArg (h : s.AgreeWhereDefined t) (v : Word32) :
    (s.setArg v).AgreeWhereDefined (t.setArg v) := { h with arg := rfl }

theorem State.AgreeWhereDefined.raise (h : s.AgreeWhereDefined t) (code : ErrCode) (w : Word32) :
    (s.raise code w).AgreeWhereDefined (t.raise code w) := { h with err := rfl, errcode := rfl, errcmd := rfl }

theorem State.AgreeWhereDefined.loadTable (h : s.AgreeWhereDefined t) (m : Memory) (seed : Word32) :
    (s.loadTable m seed).AgreeWhereDefined (t.loadTable m seed) := { h with table := rfl, tvalid := rfl, tseed := rfl }

/-- INIT gives every register of a context its value (R121). -/
theorem State.AgreeWhereDefined.openContext (h : s.AgreeWhereDefined t) :
    s.openContext.AgreeWhereDefined t.openContext :=
  { h with
    acc := fun _ => rfl, csum := fun _ => rfl, len := fun _ => rfl, pendingBytes := fun _ => rfl
    pcount := rfl, ctx := rfl, dvalid := rfl }

theorem State.AgreeWhereDefined.countByte (h : s.AgreeWhereDefined t) :
    s.countByte.AgreeWhereDefined t.countByte := { h with len := fun hc => congrArg (· + 1) (h.len hc) }

theorem State.AgreeWhereDefined.putMix (h : s.AgreeWhereDefined t) (m : MixState) :
    (s.putMix m).AgreeWhereDefined (t.putMix m) :=
  { h with table := rfl, acc := fun _ => rfl, csum := fun _ => rfl }

theorem State.AgreeWhereDefined.publish (h : s.AgreeWhereDefined t) (d : Word256) :
    (s.publish d).AgreeWhereDefined (t.publish d) :=
  { h with
    acc := by simp, csum := by simp, len := by simp, pendingBytes := by simp
    pcount := rfl, ctx := rfl, digest := fun _ => rfl, dvalid := rfl, finalDone := rfl }

/-- A unit complete, the buffer is empty in both (R126). -/
theorem State.AgreeWhereDefined.setPcount_zero (h : s.AgreeWhereDefined t) :
    (s.setPcount 0).AgreeWhereDefined (t.setPcount 0) := { h with pcount := rfl, pendingBytes := fun _ => rfl }

/-- A byte stored at PCOUNT is the last pending byte (R126). -/
theorem State.pendingBytes_storePending {b : Byte} (h : s.pcount ≠ 3) :
    ((s.storePending s.pcount b).setPcount (s.pcount + 1)).pendingBytes = s.pendingBytes ++ [b] := by
  have low : ∀ k : BitVec 2, k ≠ 3 → k = 0 ∨ k = 1 ∨ k = 2 := by decide
  obtain hk | hk | hk := low _ h <;> simp [State.pendingBytes, hk]

theorem State.AgreeWhereDefined.storePending (h : s.AgreeWhereDefined t) (hp : s.pcount ≠ 3) (b : Byte) :
    ((s.storePending s.pcount b).setPcount (s.pcount + 1)).AgreeWhereDefined
      ((t.storePending t.pcount b).setPcount (t.pcount + 1)) :=
  { h with
    pcount := congrArg (· + 1) h.pcount
    pendingBytes := fun hc => by
      rw [State.pendingBytes_storePending hp, State.pendingBytes_storePending (h.pcount ▸ hp), h.pendingBytes hc] }

/-- In a context Mix starts alike from both (R45). -/
theorem State.AgreeWhereDefined.mixState (h : s.AgreeWhereDefined t) (hc : s.ctx = true) : s.mixState = t.mixState := by
  simp only [State.mixState, h.table, h.acc hc, h.csum hc]

/-- Three pending bytes are P0, P1 and P2 of both. -/
theorem State.AgreeWhereDefined.pending3 (h : s.AgreeWhereDefined t) (hc : s.ctx = true) (hp : s.pcount = 3) :
    s.p0 = t.p0 ∧ s.p1 = t.p1 ∧ s.p2 = t.p2 := by
  have hb := h.pendingBytes hc
  rw [State.pendingBytes_full hp, State.pendingBytes_full (h.pcount ▸ hp)] at hb
  simpa using hb

/-! ### Commands -/

/-- A byte taken in a context by one is taken by the other, and they still agree (R45, R126). -/
theorem State.AgreeWhereDefined.updateByte {b : Byte} {s' : State} (h : s.AgreeWhereDefined t) (hc : s.ctx = true)
    (hu : updateByte p b s = some s') : ∃ t', updateByte p b t = some t' ∧ s'.AgreeWhereDefined t' := by
  obtain ⟨hp, rfl⟩ | ⟨hp, m, hm, rfl⟩ := updateByte_eq_some.1 hu
  · exact ⟨_, updateByte_eq_some.2 (.inl ⟨h.pcount ▸ hp, rfl⟩), h.countByte.storePending hp b⟩
  · obtain ⟨h0, h1, h2⟩ := h.pending3 hc hp
    rw [h0, h1, h2, h.mixState hc] at hm
    exact ⟨_, updateByte_eq_some.2 (.inr ⟨h.pcount ▸ hp, m, hm, rfl⟩), (h.countByte.putMix m).setPcount_zero⟩

theorem State.AgreeWhereDefined.feed {bs : List Byte} {s' : State} (h : s.AgreeWhereDefined t) (hc : s.ctx = true)
    (hf : feed p bs s = some s') : ∃ t', feed p bs t = some t' ∧ s'.AgreeWhereDefined t' := by
  induction bs generalizing s t with
  | nil => cases hf; exact ⟨t, rfl, h⟩
  | cons b bs ih =>
    rw [feed_cons, Option.bind_eq_some_iff] at hf
    obtain ⟨u, hu, hf⟩ := hf
    obtain ⟨v, hv, huv⟩ := h.updateByte hc hu
    obtain ⟨t', ht, hst⟩ := ih huv (by rw [updateByte_frame hu]; exact hc) hf
    exact ⟨t', by rw [feed_cons, hv]; exact ht, hst⟩

theorem Result.agree_orTableFault {o o' : Option State}
    (h : ∀ s, o = some s → ∃ t, o' = some t ∧ s.AgreeWhereDefined t)
    (h' : ∀ t, o' = some t → ∃ s, o = some s ∧ t.AgreeWhereDefined s) :
    Result.agree (orTableFault o) (orTableFault o') := by
  cases o with
  | some s => obtain ⟨t, rfl, hst⟩ := h s rfl; exact hst
  | none =>
    cases o' with
    | none => rfl
    | some t => obtain ⟨s, hs, -⟩ := h' t rfl; cases hs

theorem Result.agree_unlessFaulted {k k' : Result} (h : s.AgreeWhereDefined t) (hk : Result.agree k k') :
    Result.agree (unlessFaulted s k) (unlessFaulted t k') := by
  unfold unlessFaulted
  rw [← h.err]
  split
  · exact h
  · exact hk

theorem Result.agree_check {bad bad' : Bool} {code : ErrCode} {i : Instr} {k k' : Result} (h : s.AgreeWhereDefined t)
    (hb : bad = bad') (hk : bad = false → Result.agree k k') :
    Result.agree (check bad code i s k) (check bad' code i t k') := by
  subst hb
  cases bad
  · exact hk rfl
  · exact h.raise _ _

/-- RBINIT reads LEN in a context alone, and otherwise ARG (R45, R101). -/
theorem State.AgreeWhereDefined.rbinitWith (h : s.AgreeWhereDefined t) :
    Result.agree (rbinitWith p s) (rbinitWith p t) := by
  have hmid : (s.ctx && s.len != 0) = (t.ctx && t.len != 0) := by
    cases hc : s.ctx
    · rw [← h.ctx, hc]; rfl
    · rw [← h.ctx, hc, h.len hc]
  refine Result.agree_unlessFaulted h (Result.agree_check h hmid fun _ => ?_)
  rw [h.arg]
  exact h.loadTable _ _

theorem State.AgreeWhereDefined.execInit (h : s.AgreeWhereDefined t) : Result.agree (execInit s) (execInit t) :=
  Result.agree_unlessFaulted h h.openContext

/-- UPDATE reads the registers of the active context (R45, R124). -/
theorem State.AgreeWhereDefined.updateWith (h : s.AgreeWhereDefined t) (nbm1 : BitVec 2) :
    Result.agree (updateWith p nbm1 s) (updateWith p nbm1 t) := by
  refine Result.agree_unlessFaulted h (Result.agree_check h (by rw [h.ctx]) fun hc =>
    Result.agree_check h (by rw [h.tvalid]) fun _ => ?_)
  have hctx : s.ctx = true := by simpa using hc
  rw [h.arg]
  exact Result.agree_orTableFault (fun _ => h.feed hctx) (fun _ => h.symm.feed (h.ctx ▸ hctx))

/-- FINAL mixes the same units into the same A, CSUM and T (R45, R130). -/
theorem State.AgreeWhereDefined.finalWith (h : s.AgreeWhereDefined t) :
    Result.agree (finalWith p s) (finalWith p t) := by
  refine Result.agree_unlessFaulted h (Result.agree_check h (by rw [h.ctx]) fun hc =>
    Result.agree_check h (by rw [h.tvalid]) fun _ => ?_)
  have hctx : s.ctx = true := by simpa using hc
  have hunits : finalUnits p s = finalUnits p t := by
    simp only [finalUnits, h.pendingBytes hctx, h.len hctx]
  rw [State.mixUnits, State.mixUnits, hunits, h.mixState hctx]
  cases Machine.mixUnits p (finalUnits p t) t.mixState with
  | none => rfl
  | some m => exact (h.putMix m).publish _

theorem State.AgreeWhereDefined.exec (h : s.AgreeWhereDefined t) (i : Instr) : Result.agree (exec i s) (exec i t) := by
  cases i with
  | rbinit => exact h.rbinitWith
  | init => exact h.execInit
  | update nbm1 => exact h.updateWith nbm1
  | final => exact h.finalWith

/-! ### Host accesses and the step -/

theorem State.AgreeWhereDefined.writeCmd (h : s.AgreeWhereDefined t) (w : Word32) :
    Result.agree (writeCmd w s) (writeCmd w t) := by
  cases hd : decode w with
  | ok i => rw [writeCmd_eq_exec hd, writeCmd_eq_exec hd]; exact h.exec i
  | error e =>
    cases he : s.err
    · rw [writeCmd_illegal he hd, writeCmd_illegal (h.err ▸ he) hd]; exact h.raise _ _
    · rw [writeCmd_err w he, writeCmd_err w (h.err ▸ he)]; exact h

theorem State.AgreeWhereDefined.writeReg (h : s.AgreeWhereDefined t) (r : Reg) (v : Word32) :
    Result.agree (writeReg r v s) (writeReg r v t) := by
  by_cases hc : r = .cmd
  · subst hc; exact h.writeCmd v
  by_cases ha : r = .arg
  · subst ha; exact h.setArg v
  · rw [writeReg_ignored v hc ha, writeReg_ignored v hc ha]; exact h

/-- A read returns a register that holds a value, or stops alike (R36, R42, R45). -/
theorem State.AgreeWhereDefined.readReg (h : s.AgreeWhereDefined t) (r : Reg) : readReg r s = readReg r t := by
  cases r with
  | cmd | reserved => rfl
  | arg => exact congrArg Except.ok h.arg
  | status => simp only [Machine.readReg, State.status, h.errcode, h.pcount, h.err, h.dvalid, h.tvalid, h.ctx]
  | errcmd => exact congrArg Except.ok h.errcmd
  | tseed => exact congrArg Except.ok h.tseed
  | digest k =>
    simp only [Machine.readReg, readDigest, ← h.finalDone]
    split
    · rw [h.digest ‹_›]
    · rfl
  | twinLo i | twinHi i => simp only [Machine.readReg, readWindow, h.tvalid, h.table]

theorem State.AgreeWhereDefined.readAccess (h : s.AgreeWhereDefined t) (r : Reg) :
    Result.agree (readAccess r s) (readAccess r t) := by
  cases hr : Machine.readReg r s with
  | ok v => rw [readAccess_ok hr, readAccess_ok (h.readReg r ▸ hr)]; exact h.reply v
  | error e => rw [readAccess_error hr, readAccess_error (h.readReg r ▸ hr)]; rfl

/-- An access outside the interface is refused alike, and one inside reaches the same register (R41). -/
theorem Result.agree_onReg {off bytes : Nat} {k k' : Reg → Result} (h : ∀ r, Result.agree (k r) (k' r)) :
    Result.agree (onReg off bytes k) (onReg off bytes k') := by
  unfold onReg
  split
  · rfl
  split
  · rfl
  split
  · rfl
  · exact h _

theorem State.AgreeWhereDefined.platformReset (h : s.AgreeWhereDefined t) :
    s.platformReset.AgreeWhereDefined t.platformReset :=
  { State.AgreeWhereDefined.refl State.reset with pending := h.pending, replies := h.replies }

theorem State.AgreeWhereDefined.access (h : s.AgreeWhereDefined t) (a : Access) :
    Result.agree (access a s) (access a t) := by
  cases a with
  | write off bytes v => exact Result.agree_onReg fun r => h.writeReg r v
  | read off bytes => exact Result.agree_onReg fun r => h.readAccess r
  | reset => exact h.platformReset

theorem State.AgreeWhereDefined.step (h : s.AgreeWhereDefined t) : Result.agree (step s) (step t) := by
  cases hp : s.pending with
  | nil => rw [step_nil hp, step_nil (h.pending ▸ hp)]; exact h
  | cons a rest => rw [step_cons hp, step_cons (h.pending ▸ hp)]; exact (h.withPending rest).access a

/-- Outside a context and before a FINAL the draw is in no register that holds a value (R23, R45). -/
theorem State.resetWith_agree (d d' : ResetDraw) : (State.resetWith d).AgreeWhereDefined (State.resetWith d') := by
  constructor <;> simp

/-- Settles O57: agreement is kept by every named update a step makes, and by every value it reads. -/
theorem unspecifiedBitsNeverSeen : Obligations.UnspecifiedBitsNeverSeen :=
  ⟨fun _ _ h => h.step, State.resetWith_agree⟩

end Sys2Proof.Machine
end

section
/-! What the host's accesses do: the register map, writes, reads, refusals and the reset event. -/

namespace Sys2Proof.Machine

variable {s : State} {rest : List Access}

theorem step_write {off : Nat} {r : Reg} {v : Word32} (h : s.pending = .write off 4 v :: rest) (hm : off % 4 = 0)
    (hr : regAt off = some r) : step s = writeReg r v (s.withPending rest) := by
  rw [step_cons h, access_write hm hr]

/-- A read that returns a value appends it to the replies and changes nothing else (R65). -/
theorem step_read_ok {off : Nat} {r : Reg} {v : Word32} (h : s.pending = .read off 4 :: rest) (hm : off % 4 = 0)
    (hr : regAt off = some r) (hv : readReg r (s.withPending rest) = .ok v) :
    step s = .next { s with pending := rest, replies := s.replies ++ [v] } := by
  rw [step_cons h, access_read hm hr, readAccess_ok hv]
  rfl

/-- A read that the spec gives no value stops the model (R36, R42). -/
theorem step_read_error {off : Nat} {r : Reg} {e : Fault} (h : s.pending = .read off 4 :: rest) (hm : off % 4 = 0)
    (hr : regAt off = some r) (he : readReg r (s.withPending rest) = .error e) : step s = .fault e := by
  rw [step_cons h, access_read hm hr, readAccess_error he]

theorem readDigest_ok (h : s.finalDone = true) (k : BitVec 3) : readDigest k s = .ok (accD s.digest k.toNat) := if_pos h

theorem readDigest_error (h : s.finalDone = false) (k : BitVec 3) : readDigest k s = .error .digestUnspecified := by
  simp [readDigest, h]

theorem readWindow_ok {half : Word64 → Word32} {i : Index} {e : Word64} (hv : s.tvalid = true)
    (he : s.table.read i.toNat = some e) : readWindow half i s = .ok (half e) := by
  simp [readWindow, hv, he]

theorem readWindow_error (half : Word64 → Word32) (i : Index) (hv : s.tvalid = false) :
    readWindow half i s = .error .windowUnspecified := by
  simp [readWindow, hv]

theorem State.status_resetWith (d : ResetDraw) : (State.resetWith d).status = 0 := by
  simp [State.status, ErrCode.bits]

/-- STATUS bit by bit, from CTX up (R37). Above bit 11 the code has no bit left. -/
theorem State.status_getLsbD (s : State) (n : Nat) :
    s.status.getLsbD n =
      if n = 0 then s.ctx else if n = 1 then s.tvalid else if n = 2 then s.dvalid else if n = 3 then s.err
      else if n < 6 then s.pcount.getLsbD (n - 4)
      else if n < 8 then false
      else s.errcode.bits.getLsbD (n - 8) := by
  -- the width as the sum that the concatenation has, so that the law of a bit of `++` applies
  show BitVec.getLsbD (w := 20 + 4 + 2 + 2 + 1 + 1 + 1 + 1) s.status n = _
  simp only [State.status]
  grind

/-- Settles O5: the access reaches CMD, and a write of CMD is its command, faulted or not. -/
theorem stepRunsDecodedCommand : Obligations.StepRunsDecodedCommand := fun s rest w i hp hd => by
  rw [step_write hp rfl regAt_cmd]
  exact writeCmd_eq_exec hd _

/-- Settles O19: by computation, field by field; no field named is one of the draw's. -/
theorem resetEventValues : Obligations.ResetEventValues :=
  ⟨fun _ => ⟨rfl, rfl, rfl, rfl, rfl, rfl, rfl, rfl, rfl, State.status_resetWith _⟩, rfl, fun _ _ hp => step_cons hp⟩

/-- Settles O11: such an offset names a register other than CMD and ARG. -/
theorem writesElsewhereIgnored : Obligations.WritesElsewhereIgnored := fun s rest off v hp hm hlt hc ha => by
  cases hr : regAt off with
  | none => exact absurd (regAt_eq_none.1 hr) (Nat.not_le.2 hlt)
  | some r =>
    rw [step_write hp hm hr]
    refine writeReg_ignored v ?_ ?_ <;> rintro rfl
    · exact hc (regAt_eq_cmd hr)
    · exact ha (regAt_eq_arg hr)

/-- Settles O12: the laws of the map, one per row of R41. -/
theorem registerMapDecoding : Obligations.RegisterMapDecoding :=
  ⟨regAt_cmd, regAt_arg, regAt_status, regAt_errcmd, regAt_tseed, regAt_digest, regAt_twinLo, regAt_twinHi,
    fun _ => regAt_reserved, fun _ => regAt_eq_none⟩

/-- Settles O14: each of these offsets names a register whose read returns the value claimed. -/
theorem readsReturnRegisters : Obligations.ReadsReturnRegisters := fun s rest off v hp hm hv => by
  obtain ⟨rfl, rfl⟩ | ⟨rfl, rfl⟩ | ⟨rfl, rfl⟩ | ⟨rfl, rfl⟩ | ⟨h1, h2, rfl⟩ | ⟨h1, h2, rfl⟩ := hv
  · exact step_read_ok hp hm regAt_cmd rfl
  · exact step_read_ok hp hm regAt_status rfl
  · exact step_read_ok hp hm regAt_errcmd rfl
  · exact step_read_ok hp hm regAt_tseed rfl
  · exact step_read_ok hp hm (regAt_reserved hm (.inl ⟨h1, h2⟩)) rfl
  · exact step_read_ok hp hm (regAt_reserved hm (.inr ⟨h1, h2⟩)) rfl

/-- Settles O16: both halves of a window entry, by the two laws of a window read. -/
theorem windowReads : Obligations.WindowReads := fun s rest i => by
  have hlo : (0x4000 + 8 * i.toNat) % 4 = 0 := by omega
  have hhi : (0x4004 + 8 * i.toNat) % 4 = 0 := by omega
  refine ⟨fun hp => ⟨fun e hv he => ?_, fun hv => ?_⟩, fun hp => ⟨fun e hv he => ?_, fun hv => ?_⟩⟩
  · exact step_read_ok hp hlo (regAt_twinLo i) (readWindow_ok hv he)
  · exact step_read_error hp hlo (regAt_twinLo i) (readWindow_error _ i hv)
  · exact step_read_ok hp hhi (regAt_twinHi i) (readWindow_ok hv he)
  · exact step_read_error hp hhi (regAt_twinHi i) (readWindow_error _ i hv)

theorem onReg_width {off bytes : Nat} (h : bytes ≠ 4) (k : Reg → Result) :
    onReg off bytes k = .refused .accessWidth := if_pos h

theorem onReg_misaligned {off : Nat} (h : off % 4 ≠ 0) (k : Reg → Result) :
    onReg off 4 k = .refused .accessMisaligned := by
  simp [onReg, h]

theorem onReg_outside {off : Nat} (hm : off % 4 = 0) (h : 0x8000 ≤ off) (k : Reg → Result) :
    onReg off 4 k = .refused .accessOutsideMap := by
  simp [onReg, hm, regAt_eq_none.2 (show Config.windowBytes ≤ off from h)]

/-- Settles O18: reads and writes reach their register through the same three checks. -/
theorem accessesOutsideInterfaceRefused : Obligations.AccessesOutsideInterfaceRefused := fun s rest off bytes v hp => by
  obtain ⟨k, hk⟩ : ∃ k, step s = onReg off bytes k := by
    obtain hp | hp := hp
    · exact ⟨_, step_cons hp⟩
    · exact ⟨_, step_cons hp⟩
  rw [hk]
  refine ⟨fun h => onReg_width h k, ?_, ?_⟩ <;> rintro rfl
  · exact fun h => onReg_misaligned h k
  · exact fun hm h => onReg_outside hm h k

/-- Settles O13: each field is a slice of the concatenation that STATUS is. -/
theorem statusFields : Obligations.StatusFields := fun s => by
  have code : s.status.extractLsb' 8 4 = s.errcode.bits := by
    ext i hi
    grind [State.status_getLsbD]
  refine ⟨s.status_getLsbD 0, s.status_getLsbD 1, s.status_getLsbD 2, s.status_getLsbD 3, ?_, ?_, ?_, ?_⟩
  · ext i hi
    grind [State.status_getLsbD]
  · ext i hi
    grind [State.status_getLsbD]
  · ext i hi
    grind [State.status_getLsbD]
  · rw [code]; refine ⟨?_, ?_, ?_, ?_, ?_⟩ <;> intro h <;> rw [h] <;> rfl

end Sys2Proof.Machine
end

section
/-! The lane views of the accumulator and of the digest (R27). -/

namespace Sys2Proof.Machine

/-- A slice of A followed downwards by the byte below it is one slice (R27). -/
theorem extract_append_accB (a : Word256) (k len : Nat) :
    a.extractLsb' (8 * (k + 1)) len ++ accB a k = a.extractLsb' (8 * k) (len + 8) :=
  BitVec.extractLsb'_append_extractLsb'_eq_extractLsb' (by ring)

theorem accW_eq_le16 (a : Word256) (k : Nat) : accW a k = le16 (accB a (2 * k)) (accB a (2 * k + 1)) := by
  rw [le16, show accB a (2 * k + 1) = a.extractLsb' (8 * (2 * k + 1)) 8 from rfl, extract_append_accB, accW, lane]
  congr 1; ring

theorem accD_eq_le32 (a : Word256) (k : Nat) :
    accD a k = le32 (accB a (4 * k)) (accB a (4 * k + 1)) (accB a (4 * k + 2)) (accB a (4 * k + 3)) := by
  rw [le32, show accB a (4 * k + 3) = a.extractLsb' (8 * (4 * k + 2 + 1)) 8 from rfl]
  simp only [extract_append_accB]
  rw [accD, lane]
  congr 1; ring

theorem accQ_eq_le64 (a : Word256) (k : Nat) :
    accQ a k = le64 (accB a (8 * k)) (accB a (8 * k + 1)) (accB a (8 * k + 2)) (accB a (8 * k + 3))
      (accB a (8 * k + 4)) (accB a (8 * k + 5)) (accB a (8 * k + 6)) (accB a (8 * k + 7)) := by
  rw [le64, show accB a (8 * k + 7) = a.extractLsb' (8 * (8 * k + 6 + 1)) 8 from rfl]
  simp only [extract_append_accB]
  rw [accQ, lane]
  congr 1; ring

/-- A slice of a slice is a slice. -/
theorem extractLsb'_extractLsb' {n w w' i : Nat} (x : BitVec n) (b : Nat) (h : i + w' ≤ w) :
    (x.extractLsb' b w).extractLsb' i w' = x.extractLsb' (b + i) w' := by
  ext j hj
  simp [show i + j < w by omega, Nat.add_assoc]

theorem accD_even (a : Word256) (k : Nat) : accD a (2 * k) = lo32 (accQ a k) := by
  rw [lo32, accQ, lane, extractLsb'_extractLsb' a _ (by omega), accD, lane]
  congr 1; ring

theorem accD_odd (a : Word256) (k : Nat) : accD a (2 * k + 1) = hi32 (accQ a k) := by
  rw [hi32, accQ, lane, extractLsb'_extractLsb' a _ (by omega), accD, lane]
  congr 1; ring

/-- A write of lane `k` of width `w` is seen in the bits w·k to w·k+w-1 and in no other (R27). -/
theorem getLsbD_setLane {w : Nat} (a : Word256) (k : Nat) (v : BitVec w) {q : Nat} (hq : q < 256) :
    (setLane w a k v).getLsbD q = if w * k ≤ q ∧ q < w * k + w then v.getLsbD (q - w * k) else a.getLsbD q := by
  simp only [setLane, BitVec.getLsbD_or, BitVec.getLsbD_and, BitVec.getLsbD_not, BitVec.getLsbD_shiftLeft,
    BitVec.getLsbD_setWidth, BitVec.getLsbD_allOnes]
  grind

theorem accB_setLane {n : Nat} (hn : 0 < n) {j : Nat} (hj : j < 32) (a : Word256) (k : Nat) (v : BitVec (8 * n)) :
    accB (setLane (8 * n) a k v) j = if j / n = k then byteLE v (j % n) else accB a j := by
  have hdiv : j / n = k ↔ n * k ≤ j ∧ j < n * k + n := by
    rw [Nat.div_eq_iff hn, Nat.mul_comm n k]; omega
  ext i hi
  have hbit : (accB (setLane (8 * n) a k v) j)[i] = (setLane (8 * n) a k v).getLsbD (8 * j + i) := by
    simp [accB, lane]
  rw [hbit, getLsbD_setLane a k v (by omega), Nat.mul_assoc]
  by_cases h : j / n = k
  · have hmod : j % n = j - n * k := by rw [Nat.mod_def, h]
    rw [if_pos h, if_pos (by omega), byteLE, BitVec.getElem_extractLsb', hmod]
    congr 1; omega
  · rw [if_neg h, if_neg (by omega), accB, lane, BitVec.getElem_extractLsb']

/-- Settles O50: the lanes as the bytes they cover, the d view as halves of the q view, and the bytes a lane write covers. -/
theorem laneViewsAgree : Obligations.LaneViewsAgree := fun a => by
  refine ⟨fun k _ => accW_eq_le16 a k, fun k _ => accD_eq_le32 a k, fun k _ => accQ_eq_le64 a k,
    fun k _ => ⟨accD_even a k, accD_odd a k⟩, fun n hn k _ v j hj => ?_⟩
  exact accB_setLane (by omega) hj a k v

/-- Settles O15: with a digest the read is a 32-bit lane of it, the little-endian word of its four bytes. -/
theorem digestReads : Obligations.DigestReads := fun s rest k hp => by
  have hm : (0x0020 + 4 * k.toNat) % 4 = 0 := by omega
  refine ⟨fun hf => ?_, fun hf => ?_⟩
  · exact step_read_ok hp hm (regAt_digest k)
      ((readDigest_ok hf k).trans (congrArg Except.ok (accD_eq_le32 s.digest k.toNat)))
  · exact step_read_error hp hm (regAt_digest k) (readDigest_error hf k)

end Sys2Proof.Machine
end

section
/-! What each command leaves unchanged, that none stops in a state that meets the invariant, and where a step stops. -/

namespace Sys2Proof.Machine

variable {p : Config.Profile} {s t : State} {rest : List Access}

/-- Settles O58: case by case of what each command can answer. -/
theorem commandFrames : Obligations.CommandFrames := by
  intro i s t h
  cases i with
  | rbinit =>
    obtain ⟨-, rfl⟩ | ⟨he, -, rfl⟩ | ⟨-, -, rfl⟩ := rbinitWith_next h
    · simp
    · simp [he]
    · simp
  | init =>
    obtain ⟨-, rfl⟩ | ⟨-, rfl⟩ := execInit_next h <;> simp
  | update nbm1 =>
    obtain ⟨-, rfl⟩ | ⟨he, -, rfl⟩ | ⟨he, -, -, rfl⟩ | ⟨-, -, -, hf⟩ := updateWith_next h
    · simp
    · simp [he]
    · simp [he]
    · rw [feed_frame hf]; simp
  | final =>
    obtain ⟨-, rfl⟩ | ⟨he, -, rfl⟩ | ⟨he, -, -, rfl⟩ | ⟨-, -, -, m, -, rfl⟩ := finalWith_next h
    · simp
    · simp [he]
    · simp [he]
    · simp

/-- Settles O10: a write and a read of ARG by the register map, and the frame of the commands. -/
theorem argWrittenByHostAlone : Obligations.ArgWrittenByHostAlone :=
  ⟨fun _ _ _ hp => step_write hp rfl regAt_arg, fun _ _ hp => step_read_ok hp rfl regAt_arg rfl,
    fun i s t h => (commandFrames i s t h).1⟩

/-! ### No command stops -/

theorem unlessFaulted_answers {k : Result} (hk : ∃ t, k = .next t) : ∃ t, unlessFaulted s k = .next t := by
  cases he : s.err
  · rwa [unlessFaulted_ok he]
  · exact ⟨s, unlessFaulted_err he k⟩

theorem check_answers {bad : Bool} {code : ErrCode} {i : Instr} {k : Result} (hk : bad = false → ∃ t, k = .next t) :
    ∃ t, check bad code i s k = .next t := by
  cases bad
  · exact hk rfl
  · exact ⟨_, check_true ..⟩

theorem updateWith_answers (hf : s.tvalid = true → s.table.full) (nbm1 : BitVec 2) :
    ∃ t, updateWith p nbm1 s = .next t := by
  refine unlessFaulted_answers (check_answers fun _ => check_answers fun hv => ?_)
  obtain ⟨t, ht⟩ := feed_of_full (p := p) (hf (by simpa using hv)) (argBytes nbm1 s.arg)
  exact ⟨t, orTableFault_next.2 ht⟩

theorem finalWith_answers (hf : s.tvalid = true → s.table.full) : ∃ t, finalWith p s = .next t := by
  refine unlessFaulted_answers (check_answers fun _ => check_answers fun hv => ?_)
  obtain ⟨m, hm⟩ := mixUnits_of_full (p := p) (m := s.mixState) (hf (by simpa using hv)) (finalUnits p s)
  exact ⟨_, orTableFault_next.2 (Option.map_eq_some_iff.2 ⟨_, State.mixUnits_eq_some.2 ⟨m, hm, rfl⟩, rfl⟩)⟩

/-- Where TVALID = 1 only on a full table, every command answers a next state (R44, R159, R204). -/
theorem exec_answers (hf : s.tvalid = true → s.table.full) (i : Instr) : ∃ t, exec i s = .next t := by
  cases i with
  | rbinit => exact unlessFaulted_answers (check_answers fun _ => ⟨_, rfl⟩)
  | init => exact unlessFaulted_answers ⟨_, rfl⟩
  | update nbm1 => exact updateWith_answers hf nbm1
  | final => exact finalWith_answers hf

/-! ### Where a step stops -/

/-- A write answers as a command does, or answers a next state. -/
theorem writeReg_answers (r : Reg) (v : Word32) (s : State) :
    (∃ i, writeReg r v s = exec i s) ∨ ∃ t, writeReg r v s = .next t := by
  obtain ⟨-, hw⟩ | ⟨-, hw⟩ | hw := writeReg_cases r v s
  · obtain ⟨i, -, hc⟩ | hc | hc := writeCmd_cases v s
    · exact .inl ⟨i, hw.trans hc⟩
    · exact .inr ⟨_, hw.trans hc⟩
    · exact .inr ⟨_, hw.trans hc⟩
  · exact .inr ⟨_, hw⟩
  · exact .inr ⟨_, hw⟩

/-- A write that faults is a command that faults. -/
theorem writeReg_fault {r : Reg} {v : Word32} {e : Fault} (h : writeReg r v s = .fault e) :
    ∃ i, exec i s = .fault e := by
  obtain ⟨i, hi⟩ | ⟨t, ht⟩ := writeReg_answers r v s
  · exact ⟨i, hi.symm.trans h⟩
  · cases ht.symm.trans h

theorem writeReg_not_refused (r : Reg) (v : Word32) (s : State) (x : Refusal) : writeReg r v s ≠ .refused x := by
  intro h
  obtain ⟨i, hi⟩ | ⟨t, ht⟩ := writeReg_answers r v s
  · exact exec_not_refused i s x (hi.symm.trans h)
  · cases ht.symm.trans h

/-- A read faults at DIGEST before any FINAL, at the window with TVALID = 0, or at an entry that holds no value
(R36, R42). -/
theorem readReg_error {r : Reg} {e : Fault} (h : readReg r s = .error e) :
    (∃ k, r = .digest k ∧ s.finalDone = false ∧ e = .digestUnspecified) ∨
    ∃ i, (r = .twinLo i ∨ r = .twinHi i) ∧
      (s.tvalid = false ∧ e = .windowUnspecified ∨ s.tvalid = true ∧ s.table.read i.toNat = none) := by
  have window {half : Word64 → Word32} {i : Index} (h : readWindow half i s = .error e) :
      s.tvalid = false ∧ e = .windowUnspecified ∨ s.tvalid = true ∧ s.table.read i.toNat = none := by
    cases hv : s.tvalid
    · rw [readWindow_error half i hv] at h; cases h; exact .inl ⟨rfl, rfl⟩
    · refine .inr ⟨rfl, ?_⟩
      cases ht : s.table.read i.toNat with
      | none => rfl
      | some x => rw [readWindow_ok hv ht] at h; cases h
  cases r with
  | cmd | arg | status | errcmd | tseed | reserved => cases h
  | digest k =>
    cases hf : s.finalDone
    · have hd : readReg (.digest k) s = .error .digestUnspecified := readDigest_error hf k
      rw [hd] at h; cases h; exact .inl ⟨k, rfl, rfl, rfl⟩
    · have hd : readReg (.digest k) s = .ok _ := readDigest_ok hf k
      rw [hd] at h; cases h
  | twinLo i => exact .inr ⟨i, .inl rfl, window h⟩
  | twinHi i => exact .inr ⟨i, .inr rfl, window h⟩

/-- A step faults at a command, or at the read of a register. -/
theorem step_fault {e : Fault} (h : step s = .fault e) :
    (∃ i rest, exec i (s.withPending rest) = .fault e) ∨
    ∃ off rest r, s.pending = .read off 4 :: rest ∧ off % 4 = 0 ∧ regAt off = some r ∧
      readReg r (s.withPending rest) = .error e := by
  cases hp : s.pending with
  | nil => rw [step_nil hp] at h; cases h
  | cons a rest =>
    rw [step_cons hp] at h
    cases a with
    | reset => cases h
    | write off bytes v =>
      obtain ⟨-, -, r, -, hr⟩ := onReg_reaches h (by simp)
      obtain ⟨i, hi⟩ := writeReg_fault hr
      exact .inl ⟨i, rest, hi⟩
    | read off bytes =>
      obtain ⟨rfl, hm, r, hoff, hr⟩ := onReg_reaches h (by simp)
      exact .inr ⟨off, rest, r, rfl, hm, hoff, readAccess_fault hr⟩

/-- Only the three checks on an access refuse (R62, R223). -/
theorem onReg_refused {off bytes : Nat} {k : Reg → Result} {x : Refusal} (h : onReg off bytes k = .refused x)
    (hk : ∀ r, k r ≠ .refused x) : ¬(bytes = 4 ∧ off % 4 = 0 ∧ off < 0x8000) := by
  rintro ⟨rfl, hm, hlt⟩
  cases hr : regAt off with
  | none => exact absurd (regAt_eq_none.1 hr) (Nat.not_le.2 hlt)
  | some r => exact hk r (onReg_eq hm hr k ▸ h)

theorem step_refused {x : Refusal} (h : step s = .refused x) :
    ∃ (off bytes : Nat) (v : Word32) (rest : List Access),
      (s.pending = .write off bytes v :: rest ∨ s.pending = .read off bytes :: rest) ∧
      ¬(bytes = 4 ∧ off % 4 = 0 ∧ off < 0x8000) := by
  cases hp : s.pending with
  | nil => rw [step_nil hp] at h; cases h
  | cons a rest =>
    rw [step_cons hp] at h
    cases a with
    | reset => cases h
    | write off bytes v =>
      exact ⟨off, bytes, v, rest, .inl rfl, onReg_refused h fun r => writeReg_not_refused r v _ x⟩
    | read off bytes =>
      exact ⟨off, bytes, 0, rest, .inr rfl, onReg_refused h fun r => readAccess_not_refused r _ x⟩

/-- Settles O54: by the inversions of a fault and of a refusal; the invariant excludes a command's fault and an absent
entry. -/
theorem onlyHostAccessesStopARun : Obligations.OnlyHostAccessesStopARun := by
  refine fun s hi => ⟨exec_answers hi.tableFull, fun e h => ?_, fun r h => step_refused h⟩
  obtain ⟨i, rest, hx⟩ | ⟨off, rest, r, hp, hm, hr, he⟩ := step_fault h
  · obtain ⟨t, ht⟩ := exec_answers (s := s.withPending rest) hi.tableFull i
    rw [ht] at hx; cases hx
  obtain ⟨k, rfl, hf, rfl⟩ | ⟨i, hri, ⟨hv, rfl⟩ | ⟨hv, habs⟩⟩ := readReg_error he
  · exact .inl ⟨rfl, hf, k, rest, regAt_eq_digest hm hr ▸ hp⟩
  · obtain ⟨hlo, hhi⟩ : 0x4000 ≤ off ∧ off < 0x8000 :=
      regAt_eq_twin (i := i) (by obtain rfl | rfl := hri; exacts [.inl hr, .inr hr])
    exact .inr ⟨rfl, hv, off, rest, hlo, hhi, hp⟩
  · obtain ⟨e, he⟩ := Memory.read_of_full (hi.tableFull hv) i
    cases habs.symm.trans he

end Sys2Proof.Machine
end

section
/-! UPDATE and FINAL as Mix on a list of units (R124, R129, R132). -/

namespace Sys2Proof.Machine

variable {p : Config.Profile} {s t : State} {bs : List Byte}

theorem wholeUnits_of_short (h : bs.length ≤ 3) : wholeUnits p bs = [] := by
  match bs, h with
  | [], _ | [_], _ | [_, _], _ | [_, _, _], _ => rfl

theorem tailBytes_of_short (h : bs.length ≤ 3) : tailBytes bs = bs := by
  match bs, h with
  | [], _ | [_], _ | [_, _], _ | [_, _, _], _ => rfl

theorem State.pendingBytes_short (s : State) : s.pendingBytes.length ≤ 3 := by
  rw [s.pendingBytes_length]; omega

/-- Bytes fed call Mix on the whole units of the pending bytes and the new, in order, and leave the rest pending
(R126, R129). -/
theorem feed_units (h : feed p bs s = some t) :
    mixUnits p (wholeUnits p (s.pendingBytes ++ bs)) s.mixState = some t.mixState ∧
    t.pendingBytes = tailBytes (s.pendingBytes ++ bs) := by
  induction bs generalizing s with
  | nil =>
    cases h
    rw [List.append_nil, wholeUnits_of_short t.pendingBytes_short, tailBytes_of_short t.pendingBytes_short]
    exact ⟨rfl, rfl⟩
  | cons b bs ih =>
    rw [feed_cons, Option.bind_eq_some_iff] at h
    obtain ⟨u, hu, h⟩ := h
    have hrest := ih h
    obtain ⟨hp, rfl⟩ | ⟨hp, m, hm, rfl⟩ := updateByte_eq_some.1 hu
    · have hpend : ((s.countByte.storePending s.pcount b).setPcount (s.pcount + 1)).pendingBytes =
          s.pendingBytes ++ [b] :=
        State.pendingBytes_storePending (s := s.countByte) hp
      rw [hpend, List.append_assoc] at hrest
      exact hrest
    · rw [State.pendingBytes_full hp]
      rw [State.pendingBytes_empty (s := (s.countByte.putMix m).setPcount 0) rfl] at hrest
      refine ⟨?_, hrest.2⟩
      show (Machine.mix p _ _).bind _ = _
      rw [hm]
      exact hrest.1

/-- Each byte fed adds 1 to LEN (R127). -/
theorem feed_len (h : feed p bs s = some t) : t.len = s.len + BitVec.ofNat 64 bs.length := by
  induction bs generalizing s with
  | nil => cases h; simp
  | cons b bs ih =>
    rw [feed_cons, Option.bind_eq_some_iff] at h
    obtain ⟨u, hu, h⟩ := h
    rw [ih h, updateByte_len hu, List.length_cons, BitVec.ofNat_add, BitVec.add_assoc, BitVec.add_comm 1]
    rfl

/-- UPDATE where it executes normally (R124). -/
theorem updateWith_of_ready (h : s.Ready) (nbm1 : BitVec 2) :
    updateWith p nbm1 s = orTableFault (feed p (argBytes nbm1 s.arg) s) := by
  simp [updateWith, unlessFaulted_ok h.err, h.ctx, h.tvalid]

/-- Settles O28: with at most 3 bytes there is no whole unit, so Mix is called on none and all of them stay pending. -/
theorem updateStoresWithoutMix : Obligations.UpdateStoresWithoutMix := by
  intro s nbm1 hr hlen
  obtain ⟨t, ht⟩ := feed_of_full (p := rfsP0) hr.full (argBytes nbm1 s.arg)
  obtain ⟨hmix, hpend⟩ := feed_units ht
  rw [wholeUnits_of_short hlen, mixUnits_nil, Option.some.injEq] at hmix
  rw [tailBytes_of_short hlen] at hpend
  refine ⟨t, (updateWith_of_ready hr nbm1).trans (orTableFault_next.2 ht), ?_, hpend, ?_⟩
  · have hframe := feed_frame ht
    rw [feed_len ht, argBytes_length, ← t.mixState_table, ← t.mixState_acc, ← t.mixState_csum, ← hmix] at hframe
    exact hframe
  · rw [← t.pendingBytes_length, hpend, List.length_append, s.pendingBytes_length, argBytes_length, Nat.add_assoc]

end Sys2Proof.Machine
end

section
/-! What becomes of each entry of T: an entry no iteration selects is left as it was, and any other holds the write-back of
the last iteration that selected it (R42, R155, R167). -/

namespace Sys2Proof.Machine

variable {p : Config.Profile} {c : Word32} {w w' : Walk} {m m' : MixState} {s t : State} {k : Nat}

/-- `a + b` iterations are `a` iterations and then `b` (R153). -/
theorem walk_add (a b : Nat) : walk p c (a + b) w = (walk p c a w).bind (walk p c b) := by
  induction a generalizing w with
  | zero => rw [Nat.zero_add]; rfl
  | succ a ih =>
    rw [Nat.succ_add, walk_succ, walk_succ, Option.bind_assoc]
    congr 1; funext v; exact ih

/-- Iterations that do not select entry `k` leave it as it was (R155). -/
theorem walk_read_unselected {n : Nat} (h : walk p c n w = some w')
    (hk : ∀ a < n, ∀ v, walk p c a w = some v → v.idx.toNat ≠ k) : w'.table.read k = w.table.read k := by
  induction n generalizing w with
  | zero => cases h; rfl
  | succ n ih =>
    rw [walk_succ, Option.bind_eq_some_iff] at h
    obtain ⟨u, hu, h⟩ := h
    rw [ih h fun a ha v hv => hk (a + 1) (by omega) v (by rw [walk_succ, hu]; exact hv)]
    obtain ⟨e, -, rfl⟩ := walkStep_eq_some.1 hu
    exact Memory.read_write_ne _ _ (hk 0 (by omega) w rfl).symm

/-- The iteration `n` selects entry `k` and none after it does: `k` holds its write-back (R155). -/
theorem walk_read_last {n l : Nat} (h : walk p c l w = some w') (hn : n < l) {v : Walk} (hv : walk p c n w = some v)
    (hvk : v.idx.toNat = k) (hk : ∀ a < l, n < a → ∀ u, walk p c a w = some u → u.idx.toNat ≠ k) :
    ∃ e, v.table.read k = some e ∧ w'.table.read k = some (p.f e (p.g v.acc e c) c) := by
  obtain ⟨d, rfl⟩ : ∃ d, l = n + (d + 1) := ⟨l - n - 1, by omega⟩
  rw [walk_add, hv, Option.bind_some, walk_succ, Option.bind_eq_some_iff] at h
  obtain ⟨u, hu, h⟩ := h
  have hafter : w'.table.read k = u.table.read k := walk_read_unselected h fun a ha x hx =>
    hk (n + (a + 1)) (by omega) (by omega) x (by rw [walk_add, hv, Option.bind_some, walk_succ, hu]; exact hx)
  obtain ⟨e, he, rfl⟩ := walkStep_eq_some.1 hu
  subst hvk
  exact ⟨e, he, hafter.trans (Memory.read_write_self ..)⟩

/-! ### The iterations of a list of Mix calls -/

theorem iterationAt_zero (u : Word32) (us : List Word32) (m : MixState) (n : Nat) :
    iterationAt (u :: us) m 0 n =
      (walk rfsP0 (rfsP0.crc m.csum u) n (mixStart rfsP0 u m)).map fun w => (rfsP0.crc m.csum u, w) := rfl

/-- The calls after the first are those of the rest, from where the first left off. -/
theorem iterationAt_succ {u : Word32} (h : mix rfsP0 u m = some m') (us : List Word32) (j n : Nat) :
    iterationAt (u :: us) m (j + 1) n = iterationAt us m' j n := by
  simp only [iterationAt, List.getElem?_cons_succ, List.take_succ_cons, mixUnits_cons, h, Option.bind_some]

/-- An entry that no iteration of a Mix selects is left as it was. -/
theorem mix_read_unselected {u : Word32} (h : mix rfsP0 u m = some m')
    (hk : ∀ n c w, n < 4 → iterationAt [u] m 0 n = some (c, w) → w.idx.toNat ≠ k) :
    m'.table.read k = m.table.read k := by
  obtain ⟨w, hw, rfl⟩ := mix_eq_some.1 h
  exact walk_read_unselected hw fun n hn v hv => hk n _ v hn (by rw [iterationAt_zero, hv]; rfl)

/-- An entry that no iteration of a list of Mix calls selects is left as it was. -/
theorem mixUnits_read_unselected {us : List Word32} (h : mixUnits rfsP0 us m = some m')
    (hk : ∀ j n c w, n < 4 → iterationAt us m j n = some (c, w) → w.idx.toNat ≠ k) :
    m'.table.read k = m.table.read k := by
  induction us generalizing m with
  | nil => cases h; rfl
  | cons u us ih =>
    rw [mixUnits_cons, Option.bind_eq_some_iff] at h
    obtain ⟨m1, hm, h⟩ := h
    rw [ih h fun j n c w hn hw => hk (j + 1) n c w hn (iterationAt_succ hm us j n ▸ hw)]
    exact mix_read_unselected hm fun n c w hn hw => hk 0 n c w hn hw

/-- An entry that some iteration of a list of Mix calls selects holds the write-back of the last that does. -/
theorem mixUnits_read_last {us : List Word32} {j n : Nat} (h : mixUnits rfsP0 us m = some m') (hn : n < 4)
    (hi : iterationAt us m j n = some (c, w)) (hwk : w.idx.toNat = k)
    (hk : ∀ j' n' c' w', n' < 4 → j < j' ∨ j = j' ∧ n < n' → iterationAt us m j' n' = some (c', w') →
      w'.idx.toNat ≠ k) :
    ∃ e, w.table.read k = some e ∧ m'.table.read k = some (rfsP0.f e (rfsP0.g w.acc e c) c) := by
  induction us generalizing m j with
  | nil => cases hi
  | cons u us ih =>
    rw [mixUnits_cons, Option.bind_eq_some_iff] at h
    obtain ⟨m1, hm, h⟩ := h
    cases j with
    | zero =>
      have hrest : m'.table.read k = m1.table.read k := mixUnits_read_unselected h fun j' n' c' w' hn' hw' =>
        hk (j' + 1) n' c' w' hn' (.inl (by omega)) (iterationAt_succ hm us j' n' ▸ hw')
      rw [iterationAt_zero, Option.map_eq_some_iff] at hi
      obtain ⟨v, hv, hcv⟩ := hi
      cases hcv
      obtain ⟨w', hw', rfl⟩ := mix_eq_some.1 hm
      rw [hrest]
      exact walk_read_last hw' hn hv hwk fun a ha hna x hx =>
        hk 0 a _ x ha (.inr ⟨rfl, hna⟩) (by rw [iterationAt_zero, hx]; rfl)
    | succ j =>
      rw [iterationAt_succ hm] at hi
      exact ih h hi fun j' n' c' w' hn' hjn hw' =>
        hk (j' + 1) n' c' w' hn' (by omega) (iterationAt_succ hm us j' n' ▸ hw')

/-! ### The commands -/

/-- A command that ends with ERR = 1 was ignored or faulted, and changed no entry of T (R203, R205). -/
theorem exec_table_of_err {i : Instr} (h : exec i s = .next t) (he : t.err = true) : t.table = s.table := by
  cases i with
  | rbinit =>
    obtain ⟨-, rfl⟩ | ⟨-, -, rfl⟩ | ⟨hs, -, rfl⟩ := rbinitWith_next h
    · rfl
    · rfl
    · cases hs.symm.trans he
  | init =>
    obtain ⟨-, rfl⟩ | ⟨-, rfl⟩ := execInit_next h <;> rfl
  | update nbm1 =>
    obtain ⟨-, rfl⟩ | ⟨-, -, rfl⟩ | ⟨-, -, -, rfl⟩ | ⟨hs, -, -, hf⟩ := updateWith_next h
    · rfl
    · rfl
    · rfl
    · rw [feed_frame hf] at he; cases hs.symm.trans he
  | final =>
    obtain ⟨-, rfl⟩ | ⟨-, -, rfl⟩ | ⟨-, -, -, rfl⟩ | ⟨hs, -, -, m, -, rfl⟩ := finalWith_next h
    · rfl
    · rfl
    · rfl
    · cases hs.symm.trans he

theorem execInit_table (h : exec .init s = .next t) : t.table = s.table := by
  obtain ⟨-, rfl⟩ | ⟨-, rfl⟩ := execInit_next h <;> rfl

/-- RBINIT that ends with ERR = 0 has filled T (R101). -/
theorem execRbinit_table (h : exec .rbinit s = .next t) (he : t.err = false) :
    t.table = Memory.fill (genP0 s.arg) := by
  obtain ⟨hs, rfl⟩ | ⟨-, -, rfl⟩ | ⟨-, -, rfl⟩ := rbinitWith_next h
  · cases hs.symm.trans he
  · cases he
  · rfl

/-- Any other command that ends with ERR = 0 leaves in T what Mix on its units leaves (R124, R132). -/
theorem exec_table_of_units {i : Instr} (h : exec i s = .next t) (he : t.err = false) (hi : i ≠ .rbinit) :
    ∃ m, mixUnits rfsP0 (unitsOf i s) s.mixState = some m ∧ t.table = m.table := by
  cases i with
  | rbinit => exact absurd rfl hi
  | init => exact ⟨s.mixState, rfl, execInit_table h⟩
  | update nbm1 =>
    obtain ⟨hs, rfl⟩ | ⟨-, -, rfl⟩ | ⟨-, -, -, rfl⟩ | ⟨-, -, -, hf⟩ := updateWith_next h
    · cases hs.symm.trans he
    · cases he
    · cases he
    · exact ⟨t.mixState, (feed_units hf).1, rfl⟩
  | final =>
    obtain ⟨hs, rfl⟩ | ⟨-, -, rfl⟩ | ⟨-, -, -, rfl⟩ | ⟨-, -, -, m, hm, rfl⟩ := finalWith_next h
    · cases hs.symm.trans he
    · cases he
    · cases he
    · exact ⟨m, hm, rfl⟩

/-- No step but a reset or a CMD write of RBINIT, UPDATE or FINAL changes T (R42). -/
theorem step_table_changed (h : step s = .next t) (hne : t.table ≠ s.table) :
    s.pending.head? = some .reset ∨
    ∃ (w : Word32) (rest : List Access) (i : Instr),
      s.pending = .write 0x0000 4 w :: rest ∧ decode w = .ok i ∧ i ≠ .init := by
  obtain ⟨-, rfl⟩ | ⟨rest, ⟨hp, rfl⟩ | ⟨w, i, hp, hd, hx⟩ | ⟨w, rfl⟩ | ⟨v, rfl⟩ | rfl | ⟨v, rfl⟩⟩ := step_next h
  · exact absurd rfl hne
  · exact .inl (by rw [hp]; rfl)
  · refine .inr ⟨w, rest, i, hp, hd, ?_⟩
    rintro rfl
    have htable := execInit_table hx
    exact hne htable
  all_goals exact absurd rfl hne

/-- Settles O44: RBINIT is the fill, and the rest is the account of Mix on the command's units. -/
theorem tableContainment : Obligations.TableContainment := by
  refine ⟨fun i s t h => ⟨?_, ?_, ?_, fun he hi k hk => ?_, fun he hi k j n c w hn hw hwk hk => ?_⟩,
    fun s t => step_table_changed⟩
  · rintro (he | rfl)
    · exact exec_table_of_err h he
    · exact execInit_table h
  · rintro he rfl k hk
    rw [execRbinit_table h he, Memory.read_fill, if_pos (by exact hk)]
  · rintro he rfl k hk
    rw [execRbinit_table h he, Memory.read_fill, if_neg (by exact Nat.not_lt.2 hk)]
  · obtain ⟨m, hm, ht⟩ := exec_table_of_units h he hi
    rw [ht]
    exact mixUnits_read_unselected hm hk
  · obtain ⟨m, hm, ht⟩ := exec_table_of_units h he hi
    rw [ht]
    exact mixUnits_read_last hm hn hw hwk hk

end Sys2Proof.Machine
end

section
/-! The frame of a read: what it returns is the engine's alone, and it leaves the engine alone (R65). -/

namespace Sys2Proof.Machine

variable {s t : State} {rest : List Access}

/-- What a read returns does not depend on the host's side of the bus. -/
theorem readReg_withPending (r : Reg) (s : State) (rest : List Access) :
    readReg r (s.withPending rest) = readReg r s := by
  cases r <;> rfl

theorem readReg_reply (r : Reg) (s : State) (v : Word32) : readReg r (s.reply v) = readReg r s := by
  cases r <;> rfl

/-- A read that answers a next state reached a register, and replied with the value it holds (R41, R65). -/
theorem step_read_next {off bytes : Nat} (hp : s.pending = .read off bytes :: rest) (h : step s = .next t) :
    bytes = 4 ∧ off % 4 = 0 ∧
      ∃ r v, regAt off = some r ∧ readReg r s = .ok v ∧ t = (s.withPending rest).reply v := by
  rw [step_cons hp] at h
  obtain ⟨hb, hm, r, hoff, hr⟩ := onReg_reaches h (by simp)
  cases hv : readReg r (s.withPending rest) with
  | ok v =>
    rw [readAccess_ok hv] at hr
    cases hr
    exact ⟨hb, hm, r, v, hoff, readReg_withPending r s rest ▸ hv, rfl⟩
  | error e => rw [readAccess_error hv] at hr; cases hr

/-- Settles O17: the read's value is that of a register, which a reply does not change, so the next read finds it again. -/
theorem readsLeaveEngineAlone : Obligations.ReadsLeaveEngineAlone := by
  intro s t off bytes rest hp h
  obtain ⟨rfl, hm, r, v, hoff, hv, rfl⟩ := step_read_next hp h
  refine ⟨v, rfl, fun rest' => step_read_ok rfl hm hoff ?_⟩
  show readReg r ((((s.withPending rest).reply v).withPending _).withPending rest') = _
  simp only [readReg_withPending, readReg_reply, hv]

end Sys2Proof.Machine
end

section
/-! Nothing an access does reads or changes the accesses still to be made, so that stepping through a list of them is
making them in order (R63, R68). One rule per part of a command, then one per command, then the access. -/

namespace Sys2Proof.Machine

variable {p : Config.Profile} {s : State} {rest : List Access}

/-- An answer with the accesses still to be made replaced in its next state, if it is one. -/
def Result.withPending (rest : List Access) : Result → Result
  | .next t => .next (t.withPending rest)
  | .fault e => .fault e
  | .refused x => .refused x

/-! ### The parts of a command -/

theorem unlessFaulted_withPending (k : Result) :
    unlessFaulted (s.withPending rest) (Result.withPending rest k) = Result.withPending rest (unlessFaulted s k) := by
  cases he : s.err
  · rw [unlessFaulted_ok he, unlessFaulted_ok (by exact he)]
  · rw [unlessFaulted_err he, unlessFaulted_err (by exact he)]; rfl

theorem check_withPending (bad : Bool) (code : ErrCode) (i : Instr) (k : Result) :
    check bad code i (s.withPending rest) (Result.withPending rest k) =
      Result.withPending rest (check bad code i s k) := by
  cases bad <;> rfl

theorem orTableFault_withPending (o : Option State) :
    orTableFault (o.map (State.withPending rest)) = Result.withPending rest (orTableFault o) := by
  cases o <;> rfl

theorem updateByte_withPending (b : Byte) :
    updateByte p b (s.withPending rest) = (updateByte p b s).map (State.withPending rest) := by
  unfold updateByte State.mix
  rw [show (State.countByte (s.withPending rest)).mixState = s.countByte.mixState from rfl]
  by_cases h : s.pcount = 3
  · rw [if_pos (by exact h), if_pos h, Option.map_map, Option.map_map, Option.map_map]; rfl
  · rw [if_neg (by exact h), if_neg h]; rfl

theorem feed_withPending (bs : List Byte) :
    feed p bs (s.withPending rest) = (feed p bs s).map (State.withPending rest) := by
  induction bs generalizing s with
  | nil => rfl
  | cons b bs ih =>
    rw [feed_cons, feed_cons, updateByte_withPending]
    cases updateByte p b s with
    | none => rfl
    | some t => exact ih

/-! ### Commands -/

theorem rbinitWith_withPending :
    rbinitWith p (s.withPending rest) = Result.withPending rest (rbinitWith p s) := by
  unfold rbinitWith
  rw [← unlessFaulted_withPending, ← check_withPending]
  rfl

theorem execInit_withPending : execInit (s.withPending rest) = Result.withPending rest (execInit s) := by
  unfold execInit
  rw [← unlessFaulted_withPending]
  rfl

theorem updateWith_withPending (nbm1 : BitVec 2) :
    updateWith p nbm1 (s.withPending rest) = Result.withPending rest (updateWith p nbm1 s) := by
  unfold updateWith
  rw [feed_withPending, orTableFault_withPending, ← unlessFaulted_withPending, ← check_withPending, ← check_withPending]
  rfl

theorem finalWith_withPending :
    finalWith p (s.withPending rest) = Result.withPending rest (finalWith p s) := by
  unfold finalWith State.mixUnits
  rw [← unlessFaulted_withPending, ← check_withPending, ← check_withPending, ← orTableFault_withPending,
    Option.map_map, Option.map_map, Option.map_map]
  rfl

theorem exec_withPending (i : Instr) : exec i (s.withPending rest) = Result.withPending rest (exec i s) := by
  cases i with
  | rbinit => exact rbinitWith_withPending
  | init => exact execInit_withPending
  | update nbm1 => exact updateWith_withPending nbm1
  | final => exact finalWith_withPending

/-! ### Accesses -/

theorem writeReg_withPending (r : Reg) (v : Word32) :
    writeReg r v (s.withPending rest) = Result.withPending rest (writeReg r v s) := by
  cases r with
  | cmd =>
    show writeCmd v _ = Result.withPending rest (writeCmd v s)
    cases hd : decode v with
    | ok i => rw [writeCmd_eq_exec hd, writeCmd_eq_exec hd, exec_withPending]
    | error e =>
      cases he : s.err
      · rw [writeCmd_illegal he hd, writeCmd_illegal (by exact he) hd]; rfl
      · rw [writeCmd_err v he, writeCmd_err v (by exact he)]; rfl
  | arg | status | errcmd | tseed | digest k | twinLo i | twinHi i | reserved => rfl

theorem readAccess_withPending (r : Reg) :
    readAccess r (s.withPending rest) = Result.withPending rest (readAccess r s) := by
  cases hr : readReg r s with
  | ok v => rw [readAccess_ok hr, readAccess_ok ((readReg_withPending ..).trans hr)]; rfl
  | error e => rw [readAccess_error hr, readAccess_error ((readReg_withPending ..).trans hr)]; rfl

theorem onReg_withPending {off bytes : Nat} {k k' : Reg → Result} (h : ∀ r, k' r = Result.withPending rest (k r)) :
    onReg off bytes k' = Result.withPending rest (onReg off bytes k) := by
  rw [funext h]
  unfold onReg
  split
  · rfl
  split
  · rfl
  split <;> rfl

/-- An access does to the engine what it does whatever the host still has to send (R68). -/
theorem access_withPending (a : Access) : access a (s.withPending rest) = Result.withPending rest (access a s) := by
  cases a with
  | write off bytes v => exact onReg_withPending fun r => writeReg_withPending r v
  | read off bytes => exact onReg_withPending fun r => readAccess_withPending r
  | reset => rfl

/-- A step makes the host's next access, and leaves it those behind it (R68). -/
theorem step_withPending_cons (a : Access) (as : List Access) (s : State) :
    step (s.withPending (a :: as)) = Result.withPending as (access a s) :=
  (step_cons rfl).trans (access_withPending (s := s) a)

/-- As many steps as there are accesses make them all (R63, R68). -/
theorem run_withPending (as : List Access) (s : State) :
    Host.Core.run core as.length (s.withPending as) = runAccesses as (s.withPending []) := by
  induction as generalizing s with
  | nil => rfl
  | cons a as ih =>
    have hstep : core.step (s.withPending (a :: as)) = Result.withPending as (access a s) := step_withPending_cons a as s
    -- the run's first step
    refine (Host.Core.run.eq_2 core _ as.length).trans ?_
    rw [hstep, runAccesses, access_withPending]
    cases access a s with
    | next t => exact ih t
    | fault e => rfl
    | refused x => rfl

/-- Settles O20: by induction on the accesses, each of which does the same whatever accesses wait behind it. -/
theorem stepsMakeAccessesInOrder : Obligations.StepsMakeAccessesInOrder := run_withPending

end Sys2Proof.Machine
end

section
/-! RBINIT's fill as a loop of single writes (R64, R101), and Mix's writes counted (R153, R155). -/

namespace Sys2Proof.Machine

variable {p : Config.Profile} {c : Word32} {w w' : Walk} {m : Memory} {n : Nat}

/-! ### The write loop -/

/-- Writes at indices below 2048 keep the canonical form, however many (R31). -/
theorem Memory.foldl_write_wf (h : m.wf) (g : Nat → Word64) (hn : n ≤ Config.tableEntries) :
    ((List.range n).foldl (fun m i => m.write i (g i)) m).wf := by
  induction n with
  | zero => exact h
  | succ n ih =>
    rw [List.range_succ, List.foldl_concat]
    exact Memory.write_wf (ih (by omega)) hn _

/-- After writes at 0 to n - 1 those entries hold what was written, and every other what it held. -/
theorem Memory.read_foldl_write (g : Nat → Word64) (n k : Nat) :
    ((List.range n).foldl (fun m i => m.write i (g i)) m).read k = if k < n then some (g k) else m.read k := by
  induction n with
  | zero => rfl
  | succ n ih =>
    rw [List.range_succ, List.foldl_concat, Memory.read_write, ih]
    by_cases hk : k = n
    · subst hk; simp
    · simp [hk, show k < n + 1 ↔ k < n by omega]

/-- A canonical table holds nothing outside 0 to 2047 (R31). -/
theorem Memory.read_outside (h : m.wf) {k : Nat} (hk : ¬k < Config.tableEntries) : m.read k = none :=
  Option.eq_none_iff_forall_ne_some.2 fun _ hv => hk (Memory.read_bound h hv)

/-- Settles O23: both tables are canonical and read the same at every index. -/
theorem fillIsTheWriteLoop : Obligations.FillIsTheWriteLoop := by
  intro f m h
  refine Memory.ext_read (Memory.foldl_write_wf h (fun i => f (BitVec.ofNat 11 i)) le_rfl) (Memory.fill_wf f) fun k => ?_
  rw [Memory.read_foldl_write fun i => f (BitVec.ofNat 11 i), Memory.read_fill]
  split
  · exact (if_pos ‹_›).symm
  · exact (Memory.read_outside h ‹_›).trans (if_neg ‹_›).symm

/-! ### The entries that Mix visits -/

/-- The indices that the first `n` iterations select, in order. -/
def visited (p : Config.Profile) (c : Word32) (w : Walk) (n : Nat) : List Nat :=
  (List.range n).filterMap fun a => (walk p c a w).map fun v => v.idx.toNat

theorem visited_length_le : (visited p c w n).length ≤ n :=
  (List.length_filterMap_le _ _).trans_eq List.length_range

theorem mem_visited {k : Nat} : k ∈ visited p c w n ↔ ∃ a < n, ∃ v, walk p c a w = some v ∧ v.idx.toNat = k := by
  simp [visited]

/-- Only entries visited can read otherwise after the loop (R155). -/
theorem mem_visited_of_changed {k : Nat} (h : walk p c n w = some w') (hk : w'.table.read k ≠ w.table.read k) :
    k ∈ visited p c w n := by
  by_contra hv
  exact hk (walk_read_unselected h fun a ha v hav hvk => hv (mem_visited.2 ⟨a, ha, v, hav, hvk⟩))

/-- Settles O43: an entry that changed was visited, and `n` iterations visit at most `n` entries. -/
theorem mixWritesVisitedEntriesOnly : Obligations.MixWritesVisitedEntriesOnly := by
  intro p u m m' h
  obtain ⟨w', hw, rfl⟩ := mix_eq_some.1 h
  refine ⟨fun k hk => walk_read_unselected hw hk, ?_⟩
  have hsub : ((List.range 2048).filter fun i => w'.table.read i ≠ m.table.read i) ⊆
      visited p (p.crc m.csum u) (mixStart p u m) p.loops := fun k hk =>
    mem_visited_of_changed hw (of_decide_eq_true (List.mem_filter.1 hk).2)
  exact (List.subperm_of_subset (List.nodup_range.filter _) hsub).length_le.trans visited_length_le

end Sys2Proof.Machine
end

section
/-! The command words: decoding and encoding as inverses, the legal words, and the rows of the opcode map (R80, R82, R83). -/

namespace Sys2Proof.Machine

variable {w : Word32} {f : CommandFields} {i : Instr}

/-! ### Decoding -/

theorem decodeFields_fields (i : Instr) : decodeFields i.fields = .ok i := by
  cases i <;> rfl

/-- Legal fields are those of a command (R83). -/
theorem exists_fields_of_legal (h : f.legal = true) : ∃ i : Instr, i.fields = f := by
  obtain ⟨op, nbm1, rsv⟩ := f
  simp only [CommandFields.legal, CommandFields.reservedClear, CommandFields.opcodeKnown,
    CommandFields.byteCountAllowed, Bool.and_eq_true, Bool.or_eq_true, beq_iff_eq] at h
  obtain ⟨⟨rfl, hop⟩, hn⟩ := h
  obtain ((rfl | rfl) | rfl) | rfl := hop
  · obtain rfl : nbm1 = 0 := by simpa using hn
    exact ⟨.rbinit, rfl⟩
  · obtain rfl : nbm1 = 0 := by simpa using hn
    exact ⟨.init, rfl⟩
  · exact ⟨.update nbm1, rfl⟩
  · obtain rfl : nbm1 = 0 := by simpa using hn
    exact ⟨.final, rfl⟩

/-- Fields that are not legal fail the check that refuses them (R83). -/
theorem decodeFields_error_of_illegal (h : f.legal = false) : ∃ e, decodeFields f = .error e := by
  unfold decodeFields
  cases hr : f.reservedClear
  · exact ⟨_, rfl⟩
  cases ho : f.opcodeKnown
  · exact ⟨_, rfl⟩
  cases hb : f.byteCountAllowed
  · exact ⟨_, rfl⟩
  · simp [CommandFields.legal, hr, ho, hb] at h

/-- A word decodes to the command it is the word of (R82). -/
theorem decode_encode (i : Instr) : decode (encode i) = .ok i := by
  rw [decode, fieldsOf_encode, decodeFields_fields]

theorem decode_error_of_illegal (h : legal w = false) : ∃ e, decode w = .error e :=
  decodeFields_error_of_illegal h

theorem legal_encode (i : Instr) : legal (encode i) = true := by
  rw [legal, fieldsOf_encode]
  exact i.wellFormed_true

/-- The legal words are the words of the commands (R82, R83). -/
theorem legal_iff_encode : legal w = true ↔ ∃ i, encode i = w := by
  constructor
  · intro h
    obtain ⟨i, hi⟩ := exists_fields_of_legal h
    exact ⟨i, fieldsOf_injective ((fieldsOf_encode i).trans hi)⟩
  · rintro ⟨i, rfl⟩
    exact legal_encode i

theorem decode_eq_ok_iff : decode w = .ok i ↔ encode i = w := by
  constructor
  · intro h
    cases hl : legal w
    · obtain ⟨e, he⟩ := decode_error_of_illegal hl
      cases he.symm.trans h
    · obtain ⟨j, rfl⟩ := legal_iff_encode.1 hl
      cases (decode_encode j).symm.trans h
      rfl
  · rintro rfl
    exact decode_encode i

/-- Settles O1: a word that decodes is legal, so it is the word of a command, which decodes to itself. -/
theorem decodeIffEncode : Obligations.DecodeIffEncode := fun _ _ => decode_eq_ok_iff

/-- Settles O4: each word is evaluated. -/
theorem workedWordsDecode : Obligations.WorkedWordsDecode := by
  refine ⟨?_, ?_, ?_, ?_, ?_, ?_, ?_, ?_, ?_, ?_, ?_, ?_⟩ <;> decide

/-! ### The legal words -/

theorem legal_iff_decode : legal w = true ↔ ∃ i, decode w = .ok i := by
  simp only [legal_iff_encode, decode_eq_ok_iff]

/-- legal(w) field by field (R83). -/
theorem legal_iff_fields :
    legal w = true ↔
      w.extractLsb' 10 22 = 0 ∧
      (w.extractLsb' 0 8 = 0x01 ∨ w.extractLsb' 0 8 = 0x02 ∨ w.extractLsb' 0 8 = 0x03 ∨ w.extractLsb' 0 8 = 0x04) ∧
      (w.extractLsb' 0 8 = 0x03 ∨ w.extractLsb' 8 2 = 0) := by
  simp only [legal, fieldsOf, CommandFields.legal, CommandFields.reservedClear, CommandFields.opcodeKnown,
    CommandFields.byteCountAllowed, Bool.and_eq_true, Bool.or_eq_true, beq_iff_eq, and_assoc, or_assoc]

/-- The seven legal words (R83). -/
theorem legal_iff_mem :
    legal w = true ↔
      w ∈ [(0x00000001 : Word32), 0x00000002, 0x00000003, 0x00000103, 0x00000203, 0x00000303, 0x00000004] := by
  rw [legal_iff_encode]
  constructor
  · rintro ⟨i, rfl⟩
    cases i with
    | rbinit | init | final => decide
    | update nbm1 => revert nbm1; decide
  · simp only [List.mem_cons, List.not_mem_nil, or_false]
    rintro (rfl | rfl | rfl | rfl | rfl | rfl | rfl)
    exacts [⟨.rbinit, rfl⟩, ⟨.init, rfl⟩, ⟨.update 0, rfl⟩, ⟨.update 1, rfl⟩, ⟨.update 2, rfl⟩, ⟨.update 3, rfl⟩,
      ⟨.final, rfl⟩]

/-- Settles O6: the access reaches CMD, where a word that does not decode raises ILLEGAL_CMD. -/
theorem illegalWordRaisesIllegalCmd : Obligations.IllegalWordRaisesIllegalCmd := fun s rest w hp he hl => by
  obtain ⟨e, hd⟩ := decode_error_of_illegal hl
  rw [step_write hp rfl regAt_cmd]
  exact writeCmd_illegal he hd

/-- Settles O2: the three readings of legal(w), and the two answers of a CMD write that runs no command. -/
theorem legalWordsAreTheSeven : Obligations.LegalWordsAreTheSeven := fun w => by
  refine ⟨legal_iff_fields, legal_iff_mem, legal_iff_decode, fun s rest hp => ⟨?_, fun he => ?_⟩⟩
  · exact illegalWordRaisesIllegalCmd s rest w hp
  · rw [step_write hp rfl regAt_cmd]
    exact writeCmd_err w he

/-! ### The opcode map -/

/-- The word of a command selects the row of that command and no other (R82). -/
theorem opcodeMap_filter_encode (i : Instr) :
    ∃ r, opcodeMap.filter (fun r => r.selectedBy (encode i)) = [r] ∧ r.mnemonic = i.mnemonic := by
  cases i with
  | rbinit => exact ⟨_, rfl, rfl⟩
  | init => exact ⟨_, rfl, rfl⟩
  | update nbm1 =>
    refine ⟨{ mnemonic := "UPDATE", matchWord := 0x00000003, maskWord := 0xFFFFFCFF }, ?_, rfl⟩
    revert nbm1; decide
  | final => exact ⟨_, rfl, rfl⟩

/-- UPDATE's row fixes OP and RSV and leaves NBM1 free (R82). -/
theorem legal_of_updateMask (h : w &&& 0xFFFFFCFF = 0x00000003) : legal w = true := by
  have masked (b n : Nat) (hm : (0xFFFFFCFF : Word32).extractLsb' b n = BitVec.allOnes n) :
      w.extractLsb' b n = (0x00000003 : Word32).extractLsb' b n := by
    rw [← h, BitVec.extractLsb'_and, hm, BitVec.and_allOnes]
  have hop : w.extractLsb' 0 8 = 0x03 := masked 0 8 rfl
  have hrsv : w.extractLsb' 10 22 = 0 := masked 10 22 rfl
  exact legal_iff_fields.2 ⟨hrsv, .inr (.inr (.inl hop)), .inl hop⟩

/-- A word that selects a row is legal (R82). -/
theorem legal_of_selectedBy {r : OpcodeRow} (hr : r ∈ opcodeMap) (h : r.selectedBy w = true) : legal w = true := by
  have full : (0xFFFFFFFF : Word32) = BitVec.allOnes 32 := rfl
  simp only [opcodeMap, List.mem_cons, List.not_mem_nil, or_false] at hr
  obtain rfl | rfl | rfl | rfl := hr <;> simp only [OpcodeRow.selectedBy, beq_iff_eq, full, BitVec.and_allOnes] at h
  · exact h ▸ legal_encode .rbinit
  · exact h ▸ legal_encode .init
  · exact legal_of_updateMask h
  · exact h ▸ legal_encode .final

/-- Settles O3: a word that decodes is the word of its command, and a word that selects a row is legal. -/
theorem oneRowPerLegalWord : Obligations.OneRowPerLegalWord := by
  refine ⟨rfl, rfl, by decide, rfl, fun w => ⟨fun i hd => ?_, fun hl => ?_, fun hop => ?_, fun hop hn => ?_⟩⟩
  · obtain rfl := decode_eq_ok_iff.1 hd
    exact opcodeMap_filter_encode i
  · refine List.filter_eq_nil_iff.2 fun r hr hs => ?_
    cases hl.symm.trans (legal_of_selectedBy hr hs)
  · refine Bool.eq_false_iff.2 fun hl => ?_
    obtain ⟨-, h | h | h | h, -⟩ := legal_iff_fields.1 hl <;> rw [h] at hop <;> revert hop <;> decide
  · refine Bool.eq_false_iff.2 fun hl => ?_
    obtain ⟨-, -, h | h⟩ := legal_iff_fields.1 hl
    · exact hop h
    · exact hn h

end Sys2Proof.Machine
end

section
/-! The bytes of ARG: what UPDATE takes of it, and that no command reads more (R84, R124). -/

namespace Sys2Proof.Machine

variable {p : Config.Profile} {s t : State} {nbm1 : BitVec 2} {v v' : Word32}

/-- UPDATE takes the bytes of ARG below the n-th, lowest first (R84). -/
theorem argBytes_eq_map (nbm1 : BitVec 2) (v : Word32) :
    argBytes nbm1 v = (List.range (nbm1.toNat + 1)).map (byteLE v) := by
  show List.take (nbm1.toNat + 1) ((List.range 4).map (byteLE v)) = _
  rw [← List.map_take, List.take_range, min_eq_left nbm1.isLt]

/-- A byte of a word depends on the bits up to its own (R11). -/
theorem byteLE_congr {j n : Nat} (hj : j < n) (h : v.toNat % 2 ^ (8 * n) = v'.toNat % 2 ^ (8 * n)) :
    byteLE v j = byteLE v' j := by
  ext k hk
  have hbit := congrArg (Nat.testBit · (8 * j + k)) h
  simpa [Nat.testBit_mod_two_pow, show 8 * j + k < 8 * n by omega, byteLE, BitVec.getLsbD] using hbit

/-- Two values of ARG with the same low n bytes give UPDATE the same bytes (R84). -/
theorem argBytes_congr (h : v.toNat % 2 ^ (8 * (nbm1.toNat + 1)) = v'.toNat % 2 ^ (8 * (nbm1.toNat + 1))) :
    argBytes nbm1 v = argBytes nbm1 v' := by
  rw [argBytes_eq_map, argBytes_eq_map]
  exact List.map_congr_left fun j hj => byteLE_congr (List.mem_range.1 hj) h

/-! ### What UPDATE and FINAL answer, check by check (R124, R130, R201) -/

theorem updateWith_noContext (he : s.err = false) (hc : s.ctx = false) :
    updateWith p nbm1 s = .next (s.raise .noContext (encode (.update nbm1))) := by
  simp [updateWith, unlessFaulted_ok he, hc]

theorem updateWith_noTable (he : s.err = false) (hc : s.ctx = true) (hv : s.tvalid = false) :
    updateWith p nbm1 s = .next (s.raise .noTable (encode (.update nbm1))) := by
  simp [updateWith, unlessFaulted_ok he, hc, hv]

theorem updateWith_runs (he : s.err = false) (hc : s.ctx = true) (hv : s.tvalid = true) :
    updateWith p nbm1 s = orTableFault (feed p (argBytes nbm1 s.arg) s) := by
  simp [updateWith, unlessFaulted_ok he, hc, hv]

theorem finalWith_noContext (he : s.err = false) (hc : s.ctx = false) :
    finalWith p s = .next (s.raise .noContext (encode .final)) := by
  simp [finalWith, unlessFaulted_ok he, hc]

theorem finalWith_noTable (he : s.err = false) (hc : s.ctx = true) (hv : s.tvalid = false) :
    finalWith p s = .next (s.raise .noTable (encode .final)) := by
  simp [finalWith, unlessFaulted_ok he, hc, hv]

/-- FINAL publishes what its passes leave in A (R130, R132, R133). -/
theorem finalWith_runs {m : MixState} (he : s.err = false) (hc : s.ctx = true) (hv : s.tvalid = true)
    (hm : mixUnits p (finalUnits p s) s.mixState = some m) :
    finalWith p s = .next ((s.putMix m).publish (p.digestOf m.acc)) := by
  simp [finalWith, unlessFaulted_ok he, hc, hv, State.mixUnits, hm, orTableFault]

/-! ### ARG changed where a command does not read it -/

/-- INIT does not read ARG (R84). -/
theorem execInit_setArg (h : execInit s = .next t) (v : Word32) : execInit (s.setArg v) = .next (t.setArg v) := by
  obtain ⟨he, rfl⟩ | ⟨he, rfl⟩ := execInit_next h
  · exact unlessFaulted_err (s := t.setArg v) he _
  · exact unlessFaulted_ok (s := s.setArg v) he _

/-- UPDATE reads of ARG only the bytes it takes (R84). -/
theorem updateWith_setArg (hb : argBytes nbm1 v = argBytes nbm1 s.arg) (h : updateWith p nbm1 s = .next t) :
    updateWith p nbm1 (s.setArg v) = .next (t.setArg v) := by
  obtain ⟨he, rfl⟩ | ⟨he, hc, rfl⟩ | ⟨he, hc, hv, rfl⟩ | ⟨he, hc, hv, hf⟩ := updateWith_next h
  · exact unlessFaulted_err (s := t.setArg v) he _
  · exact updateWith_noContext he hc
  · exact updateWith_noTable he hc hv
  · rw [updateWith_runs (s := s.setArg v) he hc hv, State.setArg_arg, hb, feed_setArg, hf]
    rfl

/-- FINAL does not read ARG (R84). -/
theorem finalWith_setArg (h : finalWith p s = .next t) (v : Word32) :
    finalWith p (s.setArg v) = .next (t.setArg v) := by
  obtain ⟨he, rfl⟩ | ⟨he, hc, rfl⟩ | ⟨he, hc, hv, rfl⟩ | ⟨he, hc, hv, m, hm, rfl⟩ := finalWith_next h
  · exact unlessFaulted_err (s := t.setArg v) he _
  · exact finalWith_noContext he hc
  · exact finalWith_noTable he hc hv
  · exact finalWith_runs he hc hv hm

/-- Settles O31: ARG enters UPDATE through the bytes it takes and the other two commands not at all. -/
theorem commandsReadTheirBytesOfArg : Obligations.CommandsReadTheirBytesOfArg := by
  refine ⟨argBytes_eq_map, fun nbm1 v s t h hlow => updateWith_setArg (argBytes_congr hlow) h, ?_⟩
  rintro i v s t (rfl | rfl) h
  · exact execInit_setArg h v
  · exact finalWith_setArg h v

/-! ### The words that carry a message -/

theorem byteLE_le32 (b0 b1 b2 b3 : Byte) :
    byteLE (le32 b0 b1 b2 b3) 0 = b0 ∧ byteLE (le32 b0 b1 b2 b3) 1 = b1 ∧ byteLE (le32 b0 b1 b2 b3) 2 = b2 ∧
    byteLE (le32 b0 b1 b2 b3) 3 = b3 := by
  refine ⟨?_, ?_, ?_, ?_⟩ <;> ext k hk <;> simp [byteLE, le32] <;> grind

/-- UPDATE takes the first n of the bytes that ARG was made of (R11, R84). -/
theorem argBytes_le32 (nbm1 : BitVec 2) (b0 b1 b2 b3 : Byte) :
    argBytes nbm1 (le32 b0 b1 b2 b3) = [b0, b1, b2, b3].take (byteCount nbm1) := by
  obtain ⟨h0, h1, h2, h3⟩ := byteLE_le32 b0 b1 b2 b3
  rw [argBytes, h0, h1, h2, h3]

theorem groupBytes_cons (nbm1 : BitVec 2) (v : Word32) (gs : List (BitVec 2 × Word32)) :
    groupBytes ((nbm1, v) :: gs) = argBytes nbm1 v ++ groupBytes gs := List.flatMap_cons

/-- Settles O41: group by group of the expansion, each of whose words carries the bytes it was made of. -/
theorem updCarriesTheMessage : Obligations.UpdCarriesTheMessage := fun m => by
  induction m using updAccesses.induct with
  | case1 b0 b1 b2 b3 rest ih =>
    obtain ⟨gs, haccess, hbytes⟩ := ih
    refine ⟨(3, le32 b0 b1 b2 b3) :: gs, ?_, ?_⟩
    · rw [updAccesses, haccess, groupAccesses]
    · rw [groupBytes_cons, argBytes_le32, hbytes]; rfl
  | case2 b0 b1 b2 => exact ⟨[(2, le32 b0 b1 b2 0)], rfl, by rw [groupBytes_cons, argBytes_le32]; rfl⟩
  | case3 b0 b1 => exact ⟨[(1, le32 b0 b1 0 0)], rfl, by rw [groupBytes_cons, argBytes_le32]; rfl⟩
  | case4 b0 => exact ⟨[(0, le32 b0 0 0 0)], rfl, by rw [groupBytes_cons, argBytes_le32]; rfl⟩
  | case5 => exact ⟨[], rfl, rfl⟩

end Sys2Proof.Machine
end

section
/-! RBINIT: what it answers with ERR = 0, and the table it loads (R101, R103). -/

namespace Sys2Proof.Machine

variable {p : Config.Profile} {s : State}

/-! ### What RBINIT answers -/

/-- RBINIT inside a hash that has taken a byte faults (R101, R201). -/
theorem rbinitWith_midhash (he : s.err = false) (hc : s.ctx = true) (hl : s.len ≠ 0) :
    rbinitWith p s = .next (s.raise .rbinitMidhash (encode .rbinit)) := by
  have hmid : (s.ctx && s.len != 0) = true := by simpa [hc] using hl
  rw [rbinitWith, unlessFaulted_ok he, hmid, check_true]

/-- RBINIT with no context, or in one that has taken no byte, loads the fill of GEN (R101). -/
theorem rbinitWith_runs (he : s.err = false) (hc : s.ctx = false ∨ s.len = 0) :
    rbinitWith p s = .next (s.loadTable (Memory.fill (p.gen s.arg)) s.arg) := by
  have hrun : (s.ctx && s.len != 0) = false := by
    obtain h | h := hc <;> simp [h]
  rw [rbinitWith, unlessFaulted_ok he, hrun, check_false]

/-- Entry i of a fill is the function's value at i (R101). -/
theorem Memory.read_fill_index (f : Index → Word64) (i : Index) : (Memory.fill f).read i.toNat = some (f i) := by
  rw [Memory.read_fill, if_pos (index_lt i), BitVec.ofNat_toNat, BitVec.setWidth_eq]

/-! ### The statements -/

/-- Settles O21: one word decodes to RBINIT, and its two answers are the fault and the fill of GEN. -/
theorem rbinitLoadsTable : Obligations.RbinitLoadsTable := by
  refine ⟨fun w => ?_, fun s he => ⟨fun ⟨hc, hl⟩ => rbinitWith_midhash he hc hl, fun hn => ?_⟩⟩
  · rw [decode_eq_ok_iff]
    exact eq_comm
  · have hc : s.ctx = false ∨ s.len = 0 := by simpa [imp_iff_not_or] using hn
    exact ⟨_, rbinitWith_runs he hc, rfl, Memory.fill_wf _, Memory.read_fill_index _⟩

/-- Settles O22: the fill that RBINIT loads is made of ARG alone. -/
theorem rbinitDependsOnSeedAlone : Obligations.RbinitDependsOnSeedAlone := by
  intro s s' he he' hc hc' harg
  refine ⟨_, _, rbinitWith_runs he hc, rbinitWith_runs he' hc', ?_, Memory.read_fill_index _⟩
  rw [State.loadTable_table, State.loadTable_table, harg]

end Sys2Proof.Machine
end

section
/-! The table generator: GEN is a bijection applied to a sum, and the sums of distinct seeds and indices differ because no
small multiple of GAMMA comes near 0 modulo 2^64 (R102, R104, R105). -/

namespace Sys2Proof.Machine

variable {s s' : Word32} {i j : Index}

/-! ### The sum before GEN's bijective steps -/

/-- The value that GEN's steps after the addition of GAMMA are applied to (R102). -/
def genSum (s : Word32) (i : Index) : Word64 := s.setWidth 64 + (i.setWidth 64 + 1) * genGamma

theorem genP0_eq (s : Word32) (i : Index) : genP0 s i = genFinalize (genSum s i) := rfl

theorem genSum_toNat (s : Word32) (i : Index) :
    (genSum s i).toNat = (s.toNat + (i.toNat + 1) * 0x9E3779B97F4A7C15) % 2 ^ 64 := by
  have hi : (i.setWidth 64 + 1).toNat = i.toNat + 1 := by bv_omega
  rw [genSum, BitVec.toNat_add, BitVec.toNat_mul, hi, BitVec.toNat_setWidth_of_le (by decide), Nat.add_mod_mod]
  rfl

/-- The sum is the seed with GAMMA added i + 1 times (R102). -/
theorem genSum_eq_iterate (s : Word32) (i : Index) :
    genSum s i = (fun x => x + genGamma)^[i.toNat + 1] (s.setWidth 64) := by
  rw [add_right_iterate_apply, nsmul_eq_mul, Nat.cast_succ, BitVec.natCast_eq_ofNat, BitVec.ofNat_toNat]
  rfl

/-- Settles O24: the closed form is the definition, and GAMMA added n times is its n-th multiple added. -/
theorem genClosedAndSequential : Obligations.GenClosedAndSequential := by
  refine fun seed i => ⟨?_, ?_⟩
  · rintro x z y rfl rfl rfl
    rfl
  · rw [genP0_eq, genSum_eq_iterate, genGamma]

/-- Settles O25: each entry is evaluated. -/
theorem defaultTableEntries : Obligations.DefaultTableEntries := by
  refine ⟨?_, ?_, ?_, ?_, ?_⟩ <;> decide

/-! ### GEN's steps are bijections -/

/-- A value that is its own right shift is 0, so two values with the same xor-shift do not differ. -/
theorem xorShift_bijective {r : Nat} (hr : 0 < r) : Function.Bijective fun x : Word64 => x ^^^ (x >>> r) := by
  refine Finite.injective_iff_bijective.1 fun x y hxy => ?_
  have hshift : x ^^^ y = (x ^^^ y) >>> r := BitVec.xor_eq_zero_iff.1 <| calc
    x ^^^ y ^^^ (x ^^^ y) >>> r = (x ^^^ x >>> r) ^^^ (y ^^^ y >>> r) := by rw [BitVec.ushiftRight_xor_distrib]; ac_rfl
    _ = 0 := BitVec.xor_eq_zero_iff.2 hxy
  have hdiv : (x ^^^ y).toNat = (x ^^^ y).toNat / 2 ^ r := by
    rw [← Nat.shiftRight_eq_div_pow, ← BitVec.toNat_ushiftRight, ← hshift]
  have hzero : (x ^^^ y).toNat = 0 := by
    by_contra hne
    exact absurd hdiv (Nat.div_lt_self (by omega) (Nat.one_lt_two_pow hr.ne')).ne'
  exact BitVec.xor_eq_zero_iff.1 (BitVec.eq_of_toNat_eq hzero)

/-- C1 has an inverse modulo 2^64 (R105). -/
theorem mul_genC1_bijective : Function.Bijective fun x : Word64 => x * genC1 :=
  IsUnit.isUnit_iff_mulRight_bijective.1 (IsUnit.of_mul_eq_one 0x96DE1B173F119089 (by decide))

/-- C2 has an inverse modulo 2^64 (R105). -/
theorem mul_genC2_bijective : Function.Bijective fun x : Word64 => x * genC2 :=
  IsUnit.isUnit_iff_mulRight_bijective.1 (IsUnit.of_mul_eq_one 0x319642B2D24D8EC3 (by decide))

/-- GEN's steps after the addition of GAMMA are the composition of five bijections (R105). -/
theorem genFinalize_bijective : Function.Bijective genFinalize :=
  (xorShift_bijective (r := 31) (by decide)).comp <| mul_genC2_bijective.comp <|
    (xorShift_bijective (r := 27) (by decide)).comp <| mul_genC1_bijective.comp <|
      xorShift_bijective (r := 30) (by decide)

/-- Two entries are equal exactly where the sums are (R105). -/
theorem genP0_eq_iff : genP0 s i = genP0 s' j ↔ genSum s i = genSum s' j := genFinalize_bijective.injective.eq_iff

/-! ### The sums are distinct -/

/-- The multiples of GAMMA keep away from those of 2^64. (1597, 987) and (2584, 1597) are a basis of the integer pairs, and
GAMMA takes them to remainders of opposite sign, the first of which is the bound. As `1 ≤ k < 2584`, either `(k, m)` is the
first or its two coordinates have opposite signs and the remainders add up. -/
theorem gamma_multiple_apart {k m : ℤ} (h1 : 1 ≤ k) (h2 : k < 2048) :
    k * 0x9E3779B97F4A7C15 - m * 2 ^ 64 ≤ -5165707820535553 ∨
      5165707820535553 ≤ k * 0x9E3779B97F4A7C15 - m * 2 ^ 64 := by
  obtain ⟨u, v, rfl, rfl⟩ : ∃ u v : ℤ, k = 1597 * u + 2584 * v ∧ m = 987 * u + 1597 * v :=
    ⟨1597 * k - 2584 * m, 1597 * m - 987 * k, by ring, by ring⟩
  have hres : (1597 * u + 2584 * v) * 0x9E3779B97F4A7C15 - (987 * u + 1597 * v) * 2 ^ 64 =
      5165707820535553 * u - 3192583009045512 * v := by ring
  rw [hres]
  obtain hv | rfl | hv := lt_trichotomy v 0
  · have hu : 0 < u := by omega
    omega
  · omega
  · have hu : u < 0 := by omega
    omega

/-- The smallest distance from 0 modulo 2^64 that R105 states. -/
theorem gamma_distance {k : Nat} (h1 : 1 ≤ k) (h2 : k < 2048) :
    5165707820535553 ≤ k * 0x9E3779B97F4A7C15 % 2 ^ 64 ∧
      k * 0x9E3779B97F4A7C15 % 2 ^ 64 ≤ 2 ^ 64 - 5165707820535553 := by
  have hbelow := gamma_multiple_apart (k := k) (m := (k * 0x9E3779B97F4A7C15 / 2 ^ 64 : ℕ)) (by omega) (by omega)
  have habove := gamma_multiple_apart (k := k) (m := (k * 0x9E3779B97F4A7C15 / 2 ^ 64 + 1 : ℕ)) (by omega) (by omega)
  omega

/-- Two seeds are closer than any two multiples of GAMMA, so a smaller index does not give the same sum (R105). -/
theorem not_lt_of_genSum_eq (h : genSum s i = genSum s' j) : ¬i.toNat < j.toNat := by
  intro hlt
  have hsum := congrArg BitVec.toNat h
  rw [genSum_toNat, genSum_toNat] at hsum
  have hfar := gamma_multiple_apart (k := j.toNat - i.toNat)
    (m := (s'.toNat + (j.toNat + 1) * 0x9E3779B97F4A7C15) / 2 ^ 64 -
      (s.toNat + (i.toNat + 1) * 0x9E3779B97F4A7C15) / 2 ^ 64) (by omega) (by omega)
  omega

/-- At one index the sums are equal exactly for the same seed (R105). -/
theorem genSum_eq_iff_seed : genSum s i = genSum s' i ↔ s = s' := by
  refine ⟨fun h => ?_, congrArg (genSum · i)⟩
  have hseed := congrArg (BitVec.setWidth 32) (add_right_cancel h)
  simpa using hseed

theorem eq_of_genSum_eq (h : genSum s i = genSum s' j) : s = s' ∧ i = j := by
  obtain rfl : i = j :=
    BitVec.eq_of_toNat_eq (le_antisymm (not_lt.1 (not_lt_of_genSum_eq h.symm)) (not_lt.1 (not_lt_of_genSum_eq h)))
  exact ⟨genSum_eq_iff_seed.1 h, rfl⟩

/-- Settles O26: GEN is a bijection of a sum, and the sums are as far apart as the multiples of GAMMA. -/
theorem seedSeparation : Obligations.SeedSeparation := by
  refine ⟨⟨?_, mul_genC1_bijective, mul_genC2_bijective, genFinalize_bijective⟩, fun _ _ _ _ => genP0_eq_iff,
    fun _ _ _ => genP0_eq_iff.trans genSum_eq_iff_seed, fun _ _ _ _ h => eq_of_genSum_eq (genP0_eq_iff.1 h),
    fun _ h2 h1 => gamma_distance h1 h2, .inl rfl⟩
  rintro r (rfl | rfl | rfl) <;> exact xorShift_bijective (by decide)

end Sys2Proof.Machine
end

section
/-! INIT, and the checks that UPDATE and FINAL make first (R121, R201). -/

namespace Sys2Proof.Machine

variable {s : State}

/-- With ERR = 0 INIT opens a context (R121). -/
theorem execInit_runs (he : s.err = false) : execInit s = .next s.openContext := unlessFaulted_ok he _

/-- STATUS in a context just opened: CTX, and TVALID where there is a table (R37, R121). -/
theorem State.status_openContext (he : s.err = false) (hc : s.errcode = .none) :
    s.openContext.status = if s.tvalid then 0x00000003 else 0x00000001 := by
  cases hv : s.tvalid <;> simp [State.status, he, hc, hv, ErrCode.bits]

/-- Settles O27: one word decodes to INIT, whose effect done twice is the effect done once. -/
theorem initOpensContext : Obligations.InitOpensContext := by
  refine ⟨fun w => ?_, fun s he => ⟨_, execInit_runs he, rfl, ?_, State.status_openContext he⟩⟩
  · rw [decode_eq_ok_iff]
    exact eq_comm
  · exact execInit_runs (s := s.openContext) he

/-- Settles O30: the two commands make the same checks, in the same order. -/
theorem updateAndFinalChecks : Obligations.UpdateAndFinalChecks := by
  rintro i s (⟨nbm1, rfl⟩ | rfl) he
  · exact ⟨updateWith_noContext he, updateWith_noTable he⟩
  · exact ⟨finalWith_noContext he, finalWith_noTable he⟩

end Sys2Proof.Machine
end

section
/-! UPDATE on a unit it completes, and the units of a message counted (R124, R126, R129). -/

namespace Sys2Proof.Machine

variable {p : Config.Profile} {s t : State}

/-- Where it executes normally UPDATE completes, and has taken its bytes (R124). -/
theorem execUpdate_of_ready (h : s.Ready) (nbm1 : BitVec 2) :
    ∃ t, feed rfsP0 (argBytes nbm1 s.arg) s = some t ∧ exec (.update nbm1) s = .next t := by
  obtain ⟨t, ht⟩ := feed_of_full (p := rfsP0) h.full (argBytes nbm1 s.arg)
  exact ⟨t, ht, (updateWith_of_ready h nbm1).trans (orTableFault_next.2 ht)⟩

theorem mixUnits_singleton (u : Word32) (m : MixState) : mixUnits p [u] m = mix p u m :=
  Option.bind_fun_some _

/-- Every four bytes make a unit (R129). -/
theorem wholeUnits_length (p : Config.Profile) : ∀ bs : List Byte, (wholeUnits p bs).length = bs.length / 4
  | [] | [_] | [_, _] | [_, _, _] => by rw [wholeUnits_of_short (by simp)]; simp
  | _ :: _ :: _ :: _ :: rest => by
    simp only [wholeUnits, List.length_cons, wholeUnits_length p rest]
    omega

/-- The bytes that make no unit are L mod 4 (R129). -/
theorem tailBytes_length : ∀ bs : List Byte, (tailBytes bs).length = bs.length % 4
  | [] | [_] | [_, _] | [_, _, _] => rfl
  | _ :: _ :: _ :: _ :: rest => by
    simp only [tailBytes, List.length_cons, tailBytes_length rest]
    omega

/-- Settles O29: the pending bytes and UPDATE's are at most 7, so the first four are the only whole unit. -/
theorem updateMixesOnce : Obligations.UpdateMixesOnce := by
  intro s nbm1 b0 b1 b2 b3 rest hr hbytes
  have hcount : rest.length + 4 = s.pcount.toNat + nbm1.toNat + 1 := by
    have := congrArg List.length hbytes
    rw [List.length_append, s.pendingBytes_length, argBytes_length] at this
    exact this.symm
  have hshort : rest.length ≤ 3 := by omega
  obtain ⟨t, hfeed, hexec⟩ := execUpdate_of_ready hr nbm1
  obtain ⟨hmix, hpend⟩ := feed_units hfeed
  rw [hbytes] at hmix hpend
  rw [wholeUnits, wholeUnits_of_short hshort, mixUnits_singleton] at hmix
  rw [tailBytes, tailBytes_of_short hshort] at hpend
  refine ⟨t.mixState, t, hmix, hexec, ?_, hpend, ?_⟩
  · have hframe := feed_frame hfeed
    rw [feed_len hfeed, argBytes_length] at hframe
    exact hframe
  · rw [← t.pendingBytes_length, hpend, hcount]

/-- Settles O33: with no byte pending the units are those of the bytes fed. -/
theorem unitSequence : Obligations.UnitSequence := by
  intro p bs s t hp hfeed
  obtain ⟨hmix, hpend⟩ := feed_units hfeed
  rw [State.pendingBytes_empty hp, List.nil_append] at hmix hpend
  refine ⟨hmix, hpend, ?_, wholeUnits_length p bs⟩
  rw [← t.pendingBytes_length, hpend, tailBytes_length]

end Sys2Proof.Machine
end

section
/-! The padding unit: its bytes in order, from which the pending bytes can be read back (R131). -/

namespace Sys2Proof.Machine

variable {bs : List Byte}

theorem bytesLE_le32 (b0 b1 b2 b3 : Byte) : bytesLE (le32 b0 b1 b2 b3) = [b0, b1, b2, b3] := by
  obtain ⟨h0, h1, h2, h3⟩ := byteLE_le32 b0 b1 b2 b3
  simp [bytesLE, List.range_succ, h0, h1, h2, h3]

/-- LE32 as its four bytes each at their place (R11). -/
theorem le32_eq_or (b0 b1 b2 b3 : Byte) :
    le32 b0 b1 b2 b3 =
      b3.setWidth 32 <<< 24 ||| b2.setWidth 32 <<< 16 ||| b1.setWidth 32 <<< 8 ||| b0.setWidth 32 := by
  ext i hi
  simp [le32]
  grind

/-- The bytes of the padding unit: the pending bytes, the marker 0x80, and zeros (R131). -/
theorem bytesLE_padP0 (h : bs.length ≤ 3) :
    bytesLE (padP0 bs) = bs ++ [0x80] ++ List.replicate (3 - bs.length) 0x00 := by
  match bs, h with
  | [], _ | [_], _ | [_, _], _ | [_, _, _], _ => exact bytesLE_le32 ..

/-- Without the zeros at its end a padded list ends in the marker. -/
theorem rdropWhile_zero_padding (bs : List Byte) (n : Nat) :
    (bs ++ [0x80] ++ List.replicate n 0x00).rdropWhile (· == 0x00) = bs ++ [0x80] := by
  induction n with
  | zero => simp
  | succ n ih => rw [List.replicate_succ', ← List.append_assoc, List.rdropWhile_concat_pos _ _ _ (by rfl), ih]

/-- The padding unit decides the bytes that it pads (R131). -/
theorem eq_of_padP0_eq {cs : List Byte} (hb : bs.length ≤ 3) (hc : cs.length ≤ 3) (h : padP0 bs = padP0 cs) :
    bs = cs := by
  have hbytes := congrArg (fun u => (bytesLE u).rdropWhile (· == 0x00)) h
  simp only [bytesLE_padP0 hb, bytesLE_padP0 hc, rdropWhile_zero_padding] at hbytes
  exact List.append_cancel_right hbytes

/-- Settles O36: LE32 of each padded list, whose marker is its last byte that is not 0. -/
theorem padUnit : Obligations.PadUnit := by
  refine ⟨by decide, fun b0 => ?_, fun b0 b1 => ?_, fun b0 b1 b2 => ?_, fun _ _ => eq_of_padP0_eq⟩
  · exact (le32_eq_or b0 0x80 0 0).trans (by simp)
  · exact (le32_eq_or b0 b1 0x80 0).trans (by simp)
  · exact le32_eq_or b0 b1 b2 0x80

end Sys2Proof.Machine
end

section
/-! FINAL where it executes normally, and the context it closes (R130, R132, R134). -/

namespace Sys2Proof.Machine

variable {p : Config.Profile} {s : State}

/-- Where it executes normally FINAL completes its passes and publishes what they leave in A (R130, R132). -/
theorem finalWith_of_ready (h : s.Ready) :
    ∃ m, mixUnits p (finalUnits p s) s.mixState = some m ∧
      finalWith p s = .next ((s.putMix m).publish (p.digestOf m.acc)) := by
  obtain ⟨m, hm⟩ := mixUnits_of_full (m := s.mixState) h.full (finalUnits p s)
  exact ⟨m, hm, finalWith_runs h.err h.ctx h.tvalid hm⟩

/-- Settles O35: one word decodes to FINAL, and the units of its passes are those of RFS-P0. -/
theorem finalPublishesDigest : Obligations.FinalPublishesDigest := by
  refine ⟨fun w => ?_, fun s hr => ?_⟩
  · rw [decode_eq_ok_iff]
    exact eq_comm
  · obtain ⟨m, hm, hexec⟩ := finalWith_of_ready (p := rfsP0) hr
    exact ⟨m, hm, hexec⟩

/-- Settles O37: what FINAL publishes has CTX = 0 and still ERR = 0. -/
theorem contextClosedAfterFinal : Obligations.ContextClosedAfterFinal := by
  intro s t hr h
  obtain ⟨m, -, hexec⟩ := finalWith_of_ready (p := rfsP0) hr
  obtain rfl : (s.putMix m).publish (rfsP0.digestOf m.acc) = t := Host.Outcome.next.inj (hexec.symm.trans h)
  have he : ((s.putMix m).publish (rfsP0.digestOf m.acc)).err = false := hr.err
  exact ⟨rfl, he, fun _ => updateWith_noContext he rfl, finalWith_noContext he rfl⟩

end Sys2Proof.Machine
end

section
/-! Groupings of a message: the accesses of each take the message's bytes in order and otherwise set ARG alone, so that
INIT, any of them and FINAL compute the hash as a function (R127, R128, R135). -/

namespace Sys2Proof.Machine

variable {p : Config.Profile} {s t : State} {gs : List (BitVec 2 × Word32)}

/-! ### A grouping takes its bytes -/

theorem State.Ready.setArg (h : s.Ready) (v : Word32) : (s.setArg v).Ready := { h with }

/-- Bytes taken leave UPDATE and FINAL executing normally (R44). -/
theorem State.Ready.feed {bs : List Byte} (h : s.Ready) (hf : feed p bs s = some t) : t.Ready := by
  have hfull := feed_full hf h.full
  rw [feed_frame hf]
  exact { h with full := hfull }

/-- After INIT on a table UPDATE and FINAL execute normally (R121). -/
theorem State.openContext_ready (he : s.err = false) (hv : s.tvalid = true) (hf : s.table.full) :
    s.openContext.Ready :=
  { err := he, ctx := rfl, tvalid := hv, full := hf }

/-- Issuing a command is its exec (R40, R82). -/
theorem access_issue_eq_exec (i : Instr) (s : State) : access (issue i) s = exec i s :=
  (access_issue i).trans (writeCmd_eq_exec (decode_encode i) s)

/-- One group takes its bytes and leaves its word in ARG (R84, R124). -/
theorem execUpdate_setArg {nbm1 : BitVec 2} {v : Word32} (h : s.Ready) (hf : feed rfsP0 (argBytes nbm1 v) s = some t) :
    exec (.update nbm1) (s.setArg v) = .next (t.setArg v) := by
  have hfeed : feed rfsP0 (argBytes nbm1 (s.setArg v).arg) (s.setArg v) = some (t.setArg v) := by
    rw [State.setArg_arg, feed_setArg, hf]; rfl
  exact (updateWith_of_ready (h.setArg v) nbm1).trans (orTableFault_next.2 hfeed)

/-- The accesses of a grouping feed its bytes, and change ARG besides (R128). -/
theorem runAccesses_groupAccesses (h : s.Ready) (hf : feed rfsP0 (groupBytes gs) s = some t) :
    ∃ v, runAccesses (groupAccesses gs) s = .next (t.setArg v) := by
  induction gs generalizing s t with
  | nil => cases hf; exact ⟨s.arg, rfl⟩
  | cons g gs ih =>
    obtain ⟨nbm1, v⟩ := g
    rw [groupBytes_cons, feed_append, Option.bind_eq_some_iff] at hf
    obtain ⟨u, hu, hf⟩ := hf
    have hrest : feed rfsP0 (groupBytes gs) (u.setArg v) = some (t.setArg v) := by rw [feed_setArg, hf]; rfl
    obtain ⟨w, hw⟩ := ih ((h.feed hu).setArg v) hrest
    refine ⟨w, ?_⟩
    rw [groupAccesses, runAccesses_cons (access_writeArg v),
      runAccesses_cons ((access_issue_eq_exec ..).trans (execUpdate_setArg h hu)), hw]
    rfl

/-- Where UPDATE executes normally every grouping completes (R124, R128). -/
theorem exists_feed_of_grouping (h : s.Ready) (gs : List (BitVec 2 × Word32)) :
    ∃ t, feed rfsP0 (groupBytes gs) s = some t ∧ ∃ v, runAccesses (groupAccesses gs) s = .next (t.setArg v) := by
  obtain ⟨t, ht⟩ := feed_of_full (p := rfsP0) h.full (groupBytes gs)
  exact ⟨t, ht, runAccesses_groupAccesses h ht⟩

/-- After INIT LEN is the number of bytes taken, modulo 2^64 (R127). -/
theorem len_of_feed_openContext {m : List Byte} (hf : feed p m s.openContext = some t) :
    t.len = BitVec.ofNat 64 m.length := (feed_len hf).trans (BitVec.zero_add _)

/-- Settles O32: each byte fed counts once, from the LEN = 0 of INIT. -/
theorem lenCountsBytes : Obligations.LenCountsBytes := by
  refine ⟨fun p bs s t => feed_len, fun gs s t u he hv hf hinit hrun => ?_⟩
  obtain rfl : s.openContext = t := Host.Outcome.next.inj ((execInit_runs he).symm.trans hinit)
  obtain ⟨t, hfeed, v, hgroup⟩ := exists_feed_of_grouping (State.openContext_ready he hv hf) gs
  obtain rfl : t.setArg v = u := Host.Outcome.next.inj (hgroup.symm.trans hrun)
  rw [State.setArg_len, len_of_feed_openContext hfeed, BitVec.toNat_ofNat]

/-! ### Groupings of the same bytes -/

/-- Reads of STATUS and writes of ARG change ARG and the replies alone (R39, R65). -/
theorem runAccesses_statusReads_argWrites {as : List Access}
    (h : ∀ a ∈ as, a = readOf .status ∨ ∃ v, a = writeArg v) (s : State) :
    ∃ v rs, runAccesses as s = .next { s with arg := v, replies := s.replies ++ rs } := by
  induction as generalizing s with
  | nil => exact ⟨s.arg, [], by simp⟩
  | cons a as ih =>
    replace ih := ih fun a ha => h a (List.mem_cons_of_mem _ ha)
    obtain rfl | ⟨v, rfl⟩ := h a List.mem_cons_self
    · have hread : access (readOf .status) s = .next (s.reply s.status) := rfl
      obtain ⟨w, rs, hrun⟩ := ih (s.reply s.status)
      exact ⟨w, s.status :: rs, by rw [runAccesses_cons hread, hrun, State.reply_replies, List.append_assoc]; rfl⟩
    · obtain ⟨w, rs, hrun⟩ := ih (s.setArg v)
      exact ⟨w, rs, by rw [runAccesses_cons (access_writeArg v), hrun]; rfl⟩

/-- Settles O34: both groupings feed the same bytes, and FINAL does not read the ARG in which they differ. -/
theorem streamingEquivalence : Obligations.StreamingEquivalence := by
  refine ⟨fun s gs gs' hr hbytes => ?_, fun as s h => runAccesses_statusReads_argWrites h s⟩
  obtain ⟨t, hfeed, v, hrun⟩ := exists_feed_of_grouping hr gs
  obtain ⟨v', hrun'⟩ := runAccesses_groupAccesses hr (hbytes ▸ hfeed)
  obtain ⟨m, -, hfinal⟩ := finalWith_of_ready (p := rfsP0) (hr.feed hfeed)
  exact ⟨_, _, _, _, hrun, hrun', rfl, finalWith_setArg hfinal v, finalWith_setArg hfinal v', rfl⟩

/-! ### The hash as a function -/

/-- The passes of FINAL, on the context that the message's bytes leave, end the hash of the message (R129, R135). -/
theorem hashOn_of_feed {m : List Byte} (hf : feed p m s.openContext = some t) :
    hashOn p s.table m = mixUnits p (finalUnits p t) t.mixState := by
  obtain ⟨hmix, hpend⟩ := feed_units hf
  rw [State.pendingBytes_empty (State.openContext_pcount s), List.nil_append] at hmix hpend
  have hwhole : mixUnits p (wholeUnits p m) { acc := 0, csum := 0, table := s.table } = some t.mixState := hmix
  rw [hashOn, hashUnits, mixUnits_append, hwhole, finalUnits, hpend, len_of_feed_openContext hf,
    Option.bind_some]

/-- INIT, a grouping and FINAL, on a table: the bytes fed to the context just opened, ARG apart, and then FINAL's passes,
which end in the hash of the bytes (R135). -/
theorem runAccesses_hash (he : s.err = false) (hv : s.tvalid = true) (hfull : s.table.full)
    (gs : List (BitVec 2 × Word32)) :
    ∃ t v x, feed rfsP0 (groupBytes gs) s.openContext = some t ∧ hashOn rfsP0 s.table (groupBytes gs) = some x ∧
      runAccesses ([issue .init] ++ groupAccesses gs ++ [issue .final]) s =
        .next (((t.setArg v).putMix x).publish x.acc) := by
  have hready := State.openContext_ready he hv hfull
  obtain ⟨t, hfeed, v, hrun⟩ := exists_feed_of_grouping hready gs
  obtain ⟨x, hx, hfinal⟩ := finalWith_of_ready (p := rfsP0) ((hready.feed hfeed).setArg v)
  have hinit : access (issue .init) s = .next s.openContext := (access_issue_eq_exec ..).trans (execInit_runs he)
  refine ⟨t, v, x, hfeed, (hashOn_of_feed hfeed).trans hx, ?_⟩
  calc runAccesses ([issue .init] ++ groupAccesses gs ++ [issue .final]) s
    _ = runAccesses [issue .final] (t.setArg v) := runAccesses_append ((runAccesses_cons hinit).trans hrun)
    _ = .next (((t.setArg v).putMix x).publish x.acc) :=
      runAccesses_cons ((access_issue_eq_exec ..).trans hfinal)

/-- U(m) is the whole units and three passes (R135). -/
theorem hashUnits_rfsP0_length (m : List Byte) : (hashUnits rfsP0 m).length = m.length / 4 + 3 := by
  rw [hashUnits, List.length_append, wholeUnits_length, passUnits_rfsP0]
  rfl

/-- Settles O38: the accesses run to the state that FINAL publishes, whose A and T are those of the hash. -/
theorem hashOfAnyGrouping : Obligations.HashOfAnyGrouping := by
  intro s gs he hv hfull
  obtain ⟨t, v, x, hfeed, hx, hrun⟩ := runAccesses_hash he hv hfull gs
  have herr : t.err = false := ((State.openContext_ready he hv hfull).feed hfeed).err
  exact ⟨_, x, hx, hrun, rfl, rfl, herr, rfl, rfl, hashUnits_rfsP0_length _⟩

end Sys2Proof.Machine
end

section
/-! The CRC step as a linear map: its laws, and its byte form (R160). -/

namespace Sys2Proof.Machine

/-! ### The loop is linear -/

/-- One bit of the loop is a shift, and the polynomial where the bit shifted out is set (R160). -/
theorem crcShift_eq (x : Word32) : crcShift x = x >>> 1 ^^^ if x.getLsbD 0 then crcPoly else 0 := by
  unfold crcShift
  split
  · rfl
  · exact BitVec.xor_zero.symm

theorem crcShift_xor (x y : Word32) : crcShift (x ^^^ y) = crcShift x ^^^ crcShift y := by
  have hbit (b b' : Bool) :
      (if b ^^ b' then crcPoly else 0) = (if b then crcPoly else 0) ^^^ if b' then crcPoly else 0 := by
    cases b <;> cases b' <;> rfl
  simp only [crcShift_eq, BitVec.getLsbD_xor, hbit, BitVec.ushiftRight_xor_distrib]
  ac_rfl

theorem crcShifts_xor (n : Nat) (x y : Word32) : crcShifts n (x ^^^ y) = crcShifts n x ^^^ crcShifts n y := by
  induction n generalizing x y with
  | zero => rfl
  | succ n ih => rw [crcShifts, crcShift_xor, ih]; rfl

@[simp] theorem crcShifts_zero (n : Nat) : crcShifts n 0 = 0 := by
  induction n with
  | zero => rfl
  | succ n ih => exact ih

theorem crcShifts_add (a b : Nat) (x : Word32) : crcShifts (a + b) x = crcShifts b (crcShifts a x) := by
  induction a generalizing x with
  | zero => rw [Nat.zero_add]; rfl
  | succ a ih => rw [Nat.succ_add]; exact ih _

/-! ### The loop is injective -/

/-- Bit 31 of the polynomial is set, so that the bit shifted out can be seen there. -/
theorem getLsbD_crcShift_top (x : Word32) : (crcShift x).getLsbD 31 = x.getLsbD 0 := by
  rw [crcShift_eq, BitVec.getLsbD_xor, BitVec.getLsbD_ushiftRight, BitVec.getLsbD_of_ge x _ (by omega), Bool.false_xor]
  cases x.getLsbD 0 <;> rfl

theorem crcShift_injective : Function.Injective crcShift := by
  intro x y h
  have hlow : x.getLsbD 0 = y.getLsbD 0 := by rw [← getLsbD_crcShift_top, h, getLsbD_crcShift_top]
  have hhigh : x >>> 1 = y >>> 1 := by
    rw [crcShift_eq, crcShift_eq, hlow] at h
    exact (BitVec.xor_left_inj _).1 h
  refine BitVec.eq_of_getLsbD_eq fun i _ => ?_
  cases i with
  | zero => exact hlow
  | succ i =>
    rw [Nat.add_comm, ← BitVec.getLsbD_ushiftRight, hhigh, BitVec.getLsbD_ushiftRight]

theorem crcShifts_injective (n : Nat) : Function.Injective (crcShifts n) := by
  induction n with
  | zero => exact Function.injective_id
  | succ n ih => exact ih.comp crcShift_injective

/-! ### The byte form -/

/-- Low bits that are clear are shifted out and leave no trace of the polynomial. -/
theorem crcShifts_of_low_clear {n : Nat} {x : Word32} (h : ∀ i < n, x.getLsbD i = false) : crcShifts n x = x >>> n := by
  induction n generalizing x with
  | zero => rfl
  | succ n ih =>
    have hshift : crcShift x = x >>> 1 := by
      rw [crcShift_eq, h 0 (by omega)]; exact BitVec.xor_zero
    have hrest : ∀ i < n, (x >>> 1).getLsbD i = false := fun i hi => by
      rw [BitVec.getLsbD_ushiftRight]; exact h _ (by omega)
    rw [crcShifts, hshift, ih hrest, Nat.add_comm, BitVec.shiftRight_add]

/-- Eight bits of the loop consume the low byte and bring the rest down (R160). -/
theorem crcShifts_eight (c u : Word32) : crcShifts 8 (c ^^^ u) = crc32b c (byteLE u 0) ^^^ u >>> 8 := by
  have hlow : ∀ i < 8, (u ^^^ (byteLE u 0).setWidth 32).getLsbD i = false := fun i hi => by
    simp [byteLE, hi, show i < 32 by omega]
  have hhigh : (u ^^^ (byteLE u 0).setWidth 32) >>> 8 = u >>> 8 := by
    ext i hi
    simp [byteLE]
  calc crcShifts 8 (c ^^^ u)
    _ = crcShifts 8 (c ^^^ (byteLE u 0).setWidth 32 ^^^ (u ^^^ (byteLE u 0).setWidth 32)) := by congr 1; grind
    _ = crc32b c (byteLE u 0) ^^^ u >>> 8 := by rw [crcShifts_xor, crcShifts_of_low_clear hlow, hhigh]; rfl

/-- Bits 8n of the loop are the update by the low n bytes, and leave the others to come (R160). -/
theorem crcShifts_bytes (c u : Word32) (n : Nat) :
    crcShifts (8 * n) (c ^^^ u) = ((List.range n).map (byteLE u)).foldl crc32b c ^^^ u >>> (8 * n) := by
  induction n with
  | zero => rfl
  | succ n ih =>
    have hbyte : byteLE (u >>> (8 * n)) 0 = byteLE u n := by
      ext i hi
      simp [byteLE]
    rw [Nat.mul_succ, crcShifts_add, ih, crcShifts_eight, hbyte, ← BitVec.shiftRight_add, List.range_succ,
      List.map_append, List.map_singleton, List.foldl_concat]

/-! ### The CRC step -/

@[simp] theorem crc32w_self (c : Word32) : crc32w c c = 0 := by
  rw [crc32w, BitVec.xor_self]
  exact crcShifts_zero 32

theorem crc32w_xor (c u c' u' : Word32) : crc32w (c ^^^ c') (u ^^^ u') = crc32w c u ^^^ crc32w c' u' := by
  rw [crc32w, crc32w, crc32w, ← crcShifts_xor]
  congr 1; ac_rfl

theorem crc32w_bijective (c : Word32) : Function.Bijective (crc32w c) :=
  Finite.injective_iff_bijective.1 fun _ _ h => (BitVec.xor_right_inj c).1 (crcShifts_injective 32 h)

/-! ### The statements -/

/-- Settles O45: the loop of the exclusive or of its arguments is linear and injective. -/
theorem crcLaws : Obligations.CrcLaws := by
  refine ⟨crc32w_self 0, crc32w_self, fun c u => ?_, crc32w_xor, crc32w_bijective⟩
  exact congrArg (crcShifts 32) BitVec.xor_zero.symm

/-- Settles O46: after the four bytes nothing of the unit is left to shift in. -/
theorem crcIsBytewise : Obligations.CrcIsBytewise := fun c u => by
  have hnone : u >>> 32 = 0 := BitVec.ushiftRight_eq_zero le_rfl
  calc crc32w c u
    _ = (bytesLE u).foldl crc32b c ^^^ u >>> 32 := crcShifts_bytes c u 4
    _ = (bytesLE u).foldl crc32b c := by rw [hnone]; exact BitVec.xor_zero

end Sys2Proof.Machine
end

section
/-! The AES round byte by byte, and SBOX from the inverse in GF(2^8) (R161 to R165). -/

namespace Sys2Proof.Machine

/-! ### The bytes of a block -/

theorem byteLE_byte (b : Byte) : byteLE b 0 = b := BitVec.extractLsb'_eq_self

theorem byteLE_append_zero {n : Nat} (x : BitVec n) (b : Byte) : byteLE (x ++ b) 0 = b := by
  ext i hi
  simp [byteLE, BitVec.getLsbD_append, hi]

theorem byteLE_append_succ {n : Nat} (x : BitVec n) (b : Byte) (j : Nat) : byteLE (x ++ b) (j + 1) = byteLE x j := by
  ext i hi
  simp [byteLE, BitVec.getLsbD_append, show ¬8 * (j + 1) + i < 8 by omega, show 8 * (j + 1) + i - 8 = 8 * j + i by omega]

theorem byteLE_xor {n : Nat} (x y : BitVec n) (j : Nat) : byteLE (x ^^^ y) j = byteLE x j ^^^ byteLE y j :=
  BitVec.extractLsb'_xor

/-- Byte j of a block is the j-th of the bytes it is made of (R161). -/
theorem byteLE_blockOf (f : Nat → Byte) {j : Nat} (hj : j < 16) : byteLE (blockOf f) j = f j := by
  unfold blockOf
  interval_cases j <;> simp only [byteLE_append_zero, byteLE_append_succ, byteLE_byte]

/-- The row and the column of byte r + 4c (R161). -/
theorem row_column {r c : Nat} (hr : r < 4) : (r + 4 * c) % 4 = r ∧ (r + 4 * c) / 4 = c := by omega

theorem byteLE_shiftRows (s : Block) {r c : Nat} (hr : r < 4) (hc : c < 4) :
    byteLE (shiftRows s) (r + 4 * c) = byteLE s (r + 4 * ((c + r) % 4)) := by
  obtain ⟨hrow, hcol⟩ := row_column (c := c) hr
  rw [shiftRows, byteLE_blockOf _ (by omega), hrow, hcol]

/-- Byte k of column c of MixColumns is made of that column alone (R164). -/
theorem byteLE_mixColumns (t : Block) {k c : Nat} (hk : k < 4) (hc : c < 4) :
    byteLE (mixColumns t) (4 * c + k) = mixColumnByte (byteLE t (4 * c)) (byteLE t (4 * c + 1)) (byteLE t (4 * c + 2))
      (byteLE t (4 * c + 3)) k := by
  obtain ⟨hrow, hcol⟩ := row_column (c := c) hk
  rw [Nat.add_comm (4 * c) k, mixColumns, byteLE_blockOf _ (by omega), hrow, hcol]

/-! ### Multiplication and inversion in GF(2^8) -/

theorem gfMul_two (a : Byte) : gfMul a 2 = xtime a := by
  simp [gfMul, gfMulBits]

theorem gfMul_three (a : Byte) : gfMul a 3 = mul3 a := by
  simp [gfMul, gfMulBits, mul3, BitVec.xor_comm]

/-- The inverse of the affine map of R162. -/
def sboxUnaffine (x : Byte) : Byte := x.rotateLeft 1 ^^^ x.rotateLeft 3 ^^^ x.rotateLeft 6 ^^^ 0x05

theorem sboxAffine_sboxUnaffine : ∀ x : Byte, sboxAffine (sboxUnaffine x) = x := by decide +kernel

/-- SBOX with its affine map taken off again is the inverse in GF(2^8) (R162). -/
theorem gfMul_sboxUnaffine_sbox : ∀ a : Byte, a ≠ 0 → gfMul a (sboxUnaffine (sbox a)) = 1 := by decide +kernel

/-! ### The statements -/

/-- Settles O47: what the affine map is applied to is its inverse's value at SBOX[a], which is the inverse of a. -/
theorem sboxIsInverseThenAffine : Obligations.SboxIsInverseThenAffine := by
  refine ⟨fun s j hj => byteLE_blockOf _ hj, fun a => ⟨sboxUnaffine (sbox a), ?_, (sboxAffine_sboxUnaffine _).symm⟩,
    rfl, rfl, rfl, rfl⟩
  obtain rfl | ha := eq_or_ne a 0
  · exact .inl ⟨rfl, rfl⟩
  · exact .inr (gfMul_sboxUnaffine_sbox a ha)

/-- The round on the vector that the spec gives (R165). -/
theorem aesenc_worked :
    aesenc 0x0848F8E92A8DC69A2BE2F4A0BEE33D19 0x05766C2A3939A323B12C548817FEFAA0 = 0x49506A0243EA5B6B2B359F68F27F9CA4 := by
  decide +kernel

/-- Settles O48: each byte of a block that is made byte by byte is the one given, and the vectors are evaluated. -/
theorem aesRound : Obligations.AesRound := by
  refine ⟨fun s r hr c hc => byteLE_shiftRows s hr hc, fun t c hc => ?_, fun a => ⟨rfl, rfl⟩,
    fun a => ⟨(gfMul_two a).symm, (gfMul_three a).symm⟩, fun s k j _ => byteLE_xor .., rfl, rfl, rfl, rfl, aesenc_worked⟩
  exact ⟨byteLE_mixColumns t (k := 0) (by omega) hc, byteLE_mixColumns t (k := 1) (by omega) hc,
    byteLE_mixColumns t (k := 2) (by omega) hc, byteLE_mixColumns t (k := 3) (by omega) hc⟩

end Sys2Proof.Machine
end

section
/-! The combine, the write-back and the next index, lane by lane (R154 to R156). -/

namespace Sys2Proof.Machine

/-! ### Lanes and rotations -/

/-- The lanes of the accumulator that is made of four (R27). -/
theorem accQ_ofQ (q0 q1 q2 q3 : Word64) :
    accQ (ofQ q0 q1 q2 q3) 0 = q0 ∧ accQ (ofQ q0 q1 q2 q3) 1 = q1 ∧ accQ (ofQ q0 q1 q2 q3) 2 = q2 ∧
    accQ (ofQ q0 q1 q2 q3) 3 = q3 := by
  refine ⟨?_, ?_, ?_, ?_⟩ <;> ext i hi <;> simp [accQ, lane, ofQ] <;> grind

@[simp] theorem rotl64_zero (x : Word64) : rotl64 x 0 = x := rfl

theorem rotl64_eq_rotateLeft (x : Word64) {r : Nat} (hr : r < 64) : rotl64 x r = x.rotateLeft r := by
  rw [rotl64, BitVec.rotateLeft_def, Nat.mod_eq_of_lt hr]
  split
  · subst r; simp [BitVec.ushiftRight_eq_zero]
  · rfl

/-- The rotation amount of the combine is the low six bits of CSUM (R154). -/
theorem toNat_extract_low_six (c : Word32) : (c.extractLsb' 0 6).toNat = c.toNat % 64 := by
  simp [BitVec.extractLsb'_toNat]

/-- The next index is that of the low 11 bits (R156). -/
theorem toNat_hP0 (a : Word256) (c : Word32) : (hP0 a c).toNat = (accD a 2 ^^^ c).toNat % 2048 := by
  simp [hP0, BitVec.extractLsb'_toNat]

/-- Settles O49: G_P0 is made of four lanes, and each is read back. -/
theorem combineWriteBackIndex : Obligations.CombineWriteBackIndex := by
  refine ⟨fun round a e c o ho => ?_, fun _ _ _ => rfl, fun a c => ⟨toNat_hP0 a c, accD_even a 1⟩, rotl64_zero,
    fun x r hr => rotl64_eq_rotateLeft x hr⟩
  rw [← toNat_extract_low_six] at ho
  subst ho
  exact accQ_ofQ ..

end Sys2Proof.Machine
end

section
/-! Mix iteration by iteration, and the worked example of it (R150, R153, R169). -/

namespace Sys2Proof.Machine

variable {w : Walk}

/-! ### The iterations of Mix -/

/-- The walk after an iteration that reads `e` (R150). -/
def Walk.next (p : Config.Profile) (c : Word32) (e : Word64) (w : Walk) : Walk :=
  { idx := p.h (p.g w.acc e c) c
    acc := p.g w.acc e c
    table := w.table.write w.idx.toNat (p.f e (p.g w.acc e c) c) }

/-- On a full table an iteration reads an entry, and the loop goes on from the next walk (R153, R159). -/
theorem walk_succ_of_full (p : Config.Profile) (c : Word32) (hw : w.table.full) (n : Nat) :
    ∃ e, w.table.read w.idx.toNat = some e ∧ (w.next p c e).table.full ∧
      walk p c (n + 1) w = walk p c n (w.next p c e) := by
  obtain ⟨e, he⟩ := Memory.read_of_full hw w.idx
  have hstep : walkStep p c w = some (w.next p c e) := walkStep_eq_some.2 ⟨e, he, rfl⟩
  exact ⟨e, he, walkStep_full hstep hw, by rw [walk_succ, hstep, Option.bind_some]⟩

/-- Settles O42: four iterations, each on the full table that the one before leaves. -/
theorem mixIsFourIterations : Obligations.MixIsFourIterations := by
  intro u m hm
  obtain ⟨e0, hread0, hfull0, hwalk0⟩ := walk_succ_of_full rfsP0 (crc32w m.csum u) (w := mixStart rfsP0 u m) hm 3
  obtain ⟨e1, hread1, hfull1, hwalk1⟩ := walk_succ_of_full rfsP0 (crc32w m.csum u) hfull0 2
  obtain ⟨e2, hread2, hfull2, hwalk2⟩ := walk_succ_of_full rfsP0 (crc32w m.csum u) hfull1 1
  obtain ⟨e3, hread3, -, hwalk3⟩ := walk_succ_of_full rfsP0 (crc32w m.csum u) hfull2 0
  exact ⟨_, _, _, _, _, e0, e1, e2, e3, _, _, _, _, _, _, _, _, rfl, rfl, hread0, rfl, rfl, rfl, hread1, rfl, rfl,
    rfl, hread2, rfl, rfl, rfl, hread3, rfl, rfl,
    mix_eq_some.2 ⟨_, hwalk0.trans (hwalk1.trans (hwalk2.trans hwalk3)), rfl⟩⟩

/-! ### The worked example -/

/-- A, CSUM and T of a context just opened on the default table (R169). -/
def defaultStart : MixState := { acc := 0, csum := 0, table := Memory.fill (genP0 0) }

/-- The indices that the iterations after the first visit (R169). -/
theorem abcd_visits : ∀ x ∈ [(1, (514 : Index)), (2, 306), (3, 429)],
    (walk rfsP0 0xCCC6120D x.1 (mixStart rfsP0 0x64636261 defaultStart)).map Walk.idx = some x.2 := by
  decide +kernel

/-- What Mix leaves (R169). -/
theorem abcd_mix :
    (mix rfsP0 0x64636261 defaultStart).map (fun m => (m.csum, m.table.read 525, m.acc)) =
      some (0xCCC6120D, some 0xD8E911311565DF60,
        ofQ 0x1763DEE43C9A7A97 0x6F5F94D6320E3CAF 0x07A7A2B2D6B5981D 0x113F284CC81676DF) := by decide +kernel

/-- Settles O51: the generator, the walk and the Mix are evaluated. -/
theorem workedMix : Obligations.WorkedMix := by
  obtain ⟨m, hm, hend⟩ := Option.map_eq_some_iff.1 abcd_mix
  obtain ⟨hcsum, hentry, hacc⟩ : _ ∧ _ ∧ _ := by simpa only [Prod.mk.injEq] using hend
  exact ⟨⟨by decide, by decide +kernel⟩, fun n i h => abcd_visits (n, i) h, m, hm, hcsum, hentry, hacc⟩

end Sys2Proof.Machine
end

section
/-! The one-shot hashes HASH, SHASH, HASH.EXT and SHASH.EXT, the reads that end them, what is left of them where a check
fails, and the fixture procedure that runs HASH round after round (R88, R190 to R196). -/

namespace Sys2Proof.Machine

variable {s : State}

/-! ### The words of a digest -/

/-- The reads of a digest return its words, and change nothing but the replies (R35, R88). -/
theorem runAccesses_digestReads {ks : List Nat} (hf : s.finalDone = true) (hk : ∀ k ∈ ks, k < 8) :
    runAccesses (ks.map fun k => readOf (.digest (BitVec.ofNat 3 k))) s =
      .next { s with replies := s.replies ++ ks.map (accD s.digest) } := by
  induction ks generalizing s with
  | nil => simp
  | cons k ks ih =>
    have hnum : (BitVec.ofNat 3 k).toNat = k := by
      rw [BitVec.toNat_ofNat, Nat.mod_eq_of_lt (hk k List.mem_cons_self)]
    have hread : access (readOf (.digest (BitVec.ofNat 3 k))) s = .next (s.reply (accD s.digest k)) := by
      rw [readOf, offsetOf, access_read (by omega) (regAt_digest _),
        readAccess_ok (r := .digest _) (readDigest_ok hf _), hnum]
    rw [List.map_cons, runAccesses_cons hread, ih (s := s.reply _) hf fun j hj => hk j (List.mem_cons_of_mem k hj),
      State.reply_replies, List.append_assoc]
    rfl

/-- `rdigest` returns the eight words of DIGEST (R88). -/
theorem runAccesses_rdigest (hf : s.finalDone = true) :
    runAccesses rdigestAccesses s = .next { s with replies := s.replies ++ (List.range 8).map (accD s.digest) } :=
  runAccesses_digestReads hf fun _ => List.mem_range.1

/-- A slice of A followed downwards by the word below it is one slice (R27). -/
theorem extract_append_accD (a : Word256) (k len : Nat) :
    a.extractLsb' (32 * (k + 1)) len ++ accD a k = a.extractLsb' (32 * k) (len + 32) :=
  BitVec.extractLsb'_append_extractLsb'_eq_extractLsb' (by ring)

/-- The host gets the digest back from its words (R35). -/
theorem digestOfWords_accD (d : Word256) : digestOfWords ((List.range 8).map (accD d)) = d := by
  show d.extractLsb' (32 * (6 + 1)) 32 ++ accD d 6 ++ accD d 5 ++ accD d 4 ++ accD d 3 ++ accD d 2 ++ accD d 1 ++
    accD d 0 = d
  rw [extract_append_accD, extract_append_accD d 5, extract_append_accD d 4, extract_append_accD d 3,
    extract_append_accD d 2, extract_append_accD d 1, extract_append_accD d 0]
  exact BitVec.extractLsb'_eq_self

/-! ### Hashes that complete -/

/-- What a one-shot hash leaves: the digest, the seed of the table's lineage, a table, no context and no fault (R192, R193). -/
structure State.Hashed (d : Word256) (seed : Word32) (t : State) : Prop where
  digest : t.digest = d
  tseed : t.tseed = seed
  tvalid : t.tvalid = true
  ctx : t.ctx = false
  dvalid : t.dvalid = true
  err : t.err = false

/-- HASH.EXT hashes on the table as it stands, leaves the table after it, and replies the digest's words (R192). -/
theorem runAccesses_hashExt (he : s.err = false) (hv : s.tvalid = true) (hfull : s.table.full) (m : List Byte) :
    ∃ t x, hashOn rfsP0 s.table m = some x ∧ runAccesses (hashExtAccesses m) s = .next t ∧
      t.Hashed x.acc s.tseed ∧ t.table = x.table ∧ t.replies = s.replies ++ (List.range 8).map (accD x.acc) := by
  obtain ⟨gs, hupd, rfl⟩ := updCarriesTheMessage m
  obtain ⟨u, v, x, hfeed, hx, hrun⟩ := runAccesses_hash he hv hfull gs
  rw [feed_frame hfeed] at hrun
  have hall := (runAccesses_append (bs := rdigestAccesses) hrun).trans (runAccesses_rdigest rfl)
  rw [← hupd] at hall
  exact ⟨_, x, hx, hall, ⟨rfl, rfl, hv, rfl, rfl, he⟩, rfl, rfl⟩

/-- SHASH hashes on a fresh table of the seed, whatever table was there (R193). -/
theorem runAccesses_shash (he : s.err = false) (hc : s.ctx = false ∨ s.len = 0) (m : List Byte) (seed : Word32) :
    ∃ t d, seededDigest rfsP0 seed m = some d ∧ runAccesses (shashAccesses m seed) s = .next t ∧
      t.Hashed d seed ∧ t.replies = s.replies ++ (List.range 8).map (accD d) := by
  have hrbinit : access (issue .rbinit) (s.setArg seed) =
      .next ((s.setArg seed).loadTable (Memory.fill (rfsP0.gen seed)) seed) :=
    (access_issue_eq_exec ..).trans (rbinitWith_runs (s := s.setArg seed) he hc)
  obtain ⟨t, x, hx, hrun, hhashed, -, hreplies⟩ :=
    runAccesses_hashExt (s := (s.setArg seed).loadTable (Memory.fill (rfsP0.gen seed)) seed) he rfl
      (Memory.fill_full _) m
  refine ⟨t, x.acc, congrArg (Option.map _) hx, ?_, hhashed, hreplies⟩
  rw [shashAccesses, List.cons_append, runAccesses_cons (access_writeArg seed), List.cons_append,
    runAccesses_cons hrbinit]
  exact hrun

/-! ### Hashes that fault -/

/-- While ERR = 1 a command issued has no effect (R205). -/
theorem access_issue_of_err (he : s.err = true) (i : Instr) : access (issue i) s = .next s :=
  (access_issue_eq_exec i s).trans (exec_err i he)

/-- While ERR = 1 a grouping, and FINAL after it, change ARG alone (R39, R205). -/
theorem runAccesses_groups_final_of_err (he : s.err = true) (gs : List (BitVec 2 × Word32)) :
    ∃ v, runAccesses (groupAccesses gs ++ [issue .final]) s = .next (s.setArg v) := by
  induction gs generalizing s with
  | nil => exact ⟨s.arg, runAccesses_cons (access_issue_of_err he .final)⟩
  | cons g gs ih =>
    obtain ⟨nbm1, v⟩ := g
    obtain ⟨w, hrest⟩ := ih (s := s.setArg v) he
    refine ⟨w, ?_⟩
    rw [groupAccesses, List.cons_append, runAccesses_cons (access_writeArg v), List.cons_append,
      runAccesses_cons (access_issue_of_err (s := s.setArg v) he _), hrest]
    rfl

/-- In a context without a table the first UPDATE or FINAL raises NO_TABLE, and what follows changes ARG alone (R201,
R205). -/
theorem runAccesses_groups_final_noTable (he : s.err = false) (hc : s.ctx = true) (hv : s.tvalid = false)
    (gs : List (BitVec 2 × Word32)) :
    ∃ v w, runAccesses (groupAccesses gs ++ [issue .final]) s = .next ((s.raise .noTable w).setArg v) := by
  cases gs with
  | nil =>
    have hfinal : access (issue .final) s = .next (s.raise .noTable (encode .final)) :=
      (access_issue_eq_exec ..).trans (finalWith_noTable he hc hv)
    exact ⟨s.arg, encode .final, runAccesses_cons hfinal⟩
  | cons g gs =>
    obtain ⟨nbm1, v⟩ := g
    have hupdate : access (issue (.update nbm1)) (s.setArg v) =
        .next ((s.setArg v).raise .noTable (encode (.update nbm1))) :=
      (access_issue_eq_exec ..).trans (updateWith_noTable (s := s.setArg v) he hc hv)
    obtain ⟨w, hrest⟩ :=
      runAccesses_groups_final_of_err (s := (s.setArg v).raise .noTable (encode (.update nbm1))) rfl gs
    refine ⟨w, encode (.update nbm1), ?_⟩
    rw [groupAccesses, List.cons_append, runAccesses_cons (access_writeArg v), List.cons_append,
      runAccesses_cons hupdate, hrest]
    rfl

/-! ### The statements on the one-shot hashes -/

/-- Settles O39: HASH.EXT on a table, whose accesses SHASH.EXT shares, and the first UPDATE or FINAL without one. -/
theorem hashExtOnTheTable : Obligations.HashExtOnTheTable := by
  refine fun s m he => ⟨fun hv hfull => ?_, fun hv => ?_⟩
  · obtain ⟨t, x, hx, hrun, hhashed, htable, hreplies⟩ := runAccesses_hashExt he hv hfull m
    refine ⟨t, x, hx, hrun, hreplies, hhashed.digest, htable, hhashed.tseed, hhashed.tvalid, hhashed.err,
      fun _ => hrun, fun seed hseed => ?_⟩
    rw [hhashed.digest]
    exact congrArg (Option.map _) (hseed ▸ hx)
  · obtain ⟨gs, hupd, -⟩ := updCarriesTheMessage m
    have hinit : access (issue .init) s = .next s.openContext := (access_issue_eq_exec ..).trans (execInit_runs he)
    obtain ⟨v, w, hrun⟩ := runAccesses_groups_final_noTable (s := s.openContext) he rfl hv gs
    refine ⟨(s.openContext.raise .noTable w).setArg v, ?_, rfl, rfl, rfl⟩
    rw [hupd, List.append_assoc, runAccesses_append (runAccesses_cons hinit)]
    exact hrun

/-- Settles O40: SHASH from a state with no hash half done; where one is, the fault of RBINIT and nothing after it. -/
theorem seededHash : Obligations.SeededHash := by
  refine ⟨fun m => rfl, fun s m seed he => ⟨fun hc => ?_, fun hc hl => ?_⟩⟩
  · obtain ⟨t, d, hd, hrun, hhashed, hreplies⟩ := runAccesses_shash he hc m seed
    exact ⟨t, d, hd, hrun, hhashed.digest, hreplies, hhashed.tvalid, hhashed.tseed, hhashed.ctx, hhashed.dvalid,
      hhashed.err⟩
  · obtain ⟨gs, hupd, -⟩ := updCarriesTheMessage m
    have hrbinit : access (issue .rbinit) (s.setArg seed) =
        .next ((s.setArg seed).raise .rbinitMidhash (encode .rbinit)) :=
      (access_issue_eq_exec ..).trans (rbinitWith_midhash (s := s.setArg seed) he hc hl)
    obtain ⟨v, hrun⟩ :=
      runAccesses_groups_final_of_err (s := (s.setArg seed).raise .rbinitMidhash (encode .rbinit)) rfl gs
    refine ⟨((s.setArg seed).raise .rbinitMidhash (encode .rbinit)).setArg v, ?_, rfl⟩
    rw [hupd, List.append_assoc, List.cons_append, runAccesses_cons (access_writeArg seed), List.cons_append,
      runAccesses_cons hrbinit, List.cons_append, runAccesses_cons (access_issue_of_err rfl .init)]
    exact hrun

/-! ### The fixture procedure -/

/-- One round: the engine and the procedure go on with the same message and the same digest (R196). -/
theorem fixtureRound (he : s.err = false) (hc : s.ctx = false ∨ s.len = 0) (msg : FixtureMessage) (it : Nat) :
    ∃ t d msg', t.Hashed d 0 ∧ t.replies.length = s.replies.length + 8 ∧
      (∀ its, runFixtureRounds (it :: its) msg s = runFixtureRounds its msg' t) ∧
      ∀ its d', fixtureRounds rfsP0 (it :: its) msg d' = fixtureRounds rfsP0 its msg' d := by
  obtain ⟨t, d, hd, hrun, hhashed, hreplies⟩ := runAccesses_shash he hc (countIn it msg).toList 0
  refine ⟨t, d, overwriteHead d (countIn it msg), hhashed, ?_, fun its => ?_, fun its d' => ?_⟩
  · simp [hreplies]
  · rw [runFixtureRounds, hashAccesses, hrun]
    simp only [hreplies, List.drop_left, digestOfWords_accD]
  · rw [fixtureRounds, hd, Option.bind_some]

/-- The rounds after a first one: the engine holds the procedure's digest after each (R196). -/
theorem runFixtureRounds_hashed {d : Word256} (h : s.Hashed d 0) (its : List Nat) (msg : FixtureMessage) :
    ∃ t d', fixtureRounds rfsP0 its msg d = some d' ∧ runFixtureRounds its msg s = .next t ∧ t.Hashed d' 0 ∧
      t.replies.length = s.replies.length + 8 * its.length := by
  induction its generalizing s d msg with
  | nil => exact ⟨s, d, rfl, rfl, h, rfl⟩
  | cons it its ih =>
    obtain ⟨u, e, msg', hu, hlen, hengine, hproc⟩ := fixtureRound h.err (.inl h.ctx) msg it
    obtain ⟨t, d', hd', hrun, ht, hlen'⟩ := ih hu msg'
    refine ⟨t, d', (hproc its d).trans hd', (hengine its).trans hrun, ht, ?_⟩
    rw [hlen', hlen, List.length_cons]
    ring

/-- Settles O60: the first round from the state given, the 255 others from one that a HASH left. -/
theorem fixtureOnTheEngine : Obligations.FixtureOnTheEngine := by
  intro pattern s he hc
  have hrange : List.range 256 = 0 :: (List.range 255).map Nat.succ := List.range_succ_eq_map
  obtain ⟨u, e, msg', hu, hlen, hengine, hproc⟩ := fixtureRound he hc pattern 0
  obtain ⟨t, d, hd, hrun, ht, hlen'⟩ := runFixtureRounds_hashed hu ((List.range 255).map Nat.succ) msg'
  refine ⟨t, d, ?_, ?_, ht.digest, ?_, ht.err, ht.dvalid, ht.tseed⟩
  · rw [fixture, hrange, hproc, hd]
  · rw [runFixture, hrange, hengine, hrun]
  · rw [hlen', hlen, List.length_map, List.length_range]

end Sys2Proof.Machine
end

section
/-! The engine while ERR = 1, at rest, and beside other engines: what keeps its state as it is (R205, R219, R221). -/

namespace Sys2Proof.Machine

variable {s t : State} {p q : Platform}

/-- While ERR = 1 a write of a register sets ARG or is ignored (R39, R205). -/
theorem writeReg_cases_of_err (he : s.err = true) (r : Reg) (v : Word32) :
    (r = .arg ∧ writeReg r v s = .next (s.setArg v)) ∨ writeReg r v s = .next s := by
  obtain ⟨rfl, -⟩ | h | h := writeReg_cases r v s
  · exact .inr (writeCmd_err v he)
  · exact .inl h
  · exact .inr h

/-- Everything a step that answers a next state can have done while ERR = 1: it was idle, reset the engine, set ARG, ignored a
write, or replied to a read. -/
theorem step_next_of_err (he : s.err = true) (h : step s = .next t) :
    (s.pending = [] ∧ t = s) ∨
    ∃ a rest, s.pending = a :: rest ∧
      (a = .reset ∨
      (∃ v, a = .write 0x0004 4 v ∧ t = (s.withPending rest).setArg v) ∨
      t = s.withPending rest ∨
      ∃ v, t = (s.withPending rest).reply v) := by
  cases hp : s.pending with
  | nil => rw [step_nil hp] at h; cases h; exact .inl ⟨rfl, rfl⟩
  | cons a rest =>
    refine .inr ⟨a, rest, rfl, ?_⟩
    cases a with
    | reset => exact .inl rfl
    | read off bytes =>
      obtain ⟨-, -, r, v, -, -, ht⟩ := step_read_next hp h
      exact .inr (.inr (.inr ⟨v, ht⟩))
    | write off bytes v =>
      rw [step_cons hp] at h
      obtain ⟨rfl, -, r, hoff, hr⟩ := onReg_reaches h (by simp)
      obtain ⟨rfl, hw⟩ | hw := writeReg_cases_of_err (s := s.withPending rest) he r v <;> rw [hw] at hr <;> cases hr
      · obtain rfl := regAt_eq_arg hoff
        exact .inr (.inl ⟨v, rfl, rfl⟩)
      · exact .inr (.inr (.inl rfl))

/-- Settles O8: by the inversion of a step with ERR = 1, of whose cases one changes ARG. -/
theorem onlyArgChangesWhileFaulted : Obligations.OnlyArgChangesWhileFaulted := by
  intro s t he hreset h
  obtain ⟨hp, rfl⟩ | ⟨a, rest, hp, rfl | ⟨v, rfl, rfl⟩ | rfl | ⟨v, rfl⟩⟩ := step_next_of_err he h
  · exact ⟨by rw [hp, List.tail_nil, ← hp], fun harg => absurd rfl harg⟩
  · exact absurd (by rw [hp]; rfl) hreset
  all_goals rw [hp]
  · exact ⟨rfl, fun _ => ⟨v, rest, rfl, rfl⟩⟩
  · exact ⟨rfl, fun harg => absurd rfl harg⟩
  · exact ⟨rfl, fun harg => absurd rfl harg⟩

/-- Settles O7: a write of CMD is ignored before its word is decoded, and every command by its first guard. -/
theorem commandsIgnoredWhileFaulted : Obligations.CommandsIgnoredWhileFaulted := by
  refine ⟨fun s rest w hp he => ?_, fun i s he => exec_err i he⟩
  rw [step_write hp rfl regAt_cmd]
  exact writeCmd_err w he

/-- Settles O9: the step with an empty list of accesses is the idle one. -/
theorem idleStepHoldsState : Obligations.IdleStepHoldsState := fun _ => step_nil

/-! ### Platforms -/

/-- A number of no engine leaves the platform as it is (log 20). -/
theorem stepEngine_none {k : Nat} (hk : p[k]? = none) : p.stepEngine k = .next p := by
  unfold Platform.stepEngine
  rw [hk]

/-- A step of an engine that answers a next platform is that engine's own step, put in its place (R221). -/
theorem stepEngine_some {k : Nat} {e : Placed} (hk : p[k]? = some e) (h : p.stepEngine k = .next q) :
    ∃ u, step e.engine = .next u ∧ q = p.set k { e with engine := u } := by
  unfold Platform.stepEngine at h
  rw [hk] at h
  cases hs : step e.engine with
  | next u => simp only [hs] at h; cases h; exact ⟨u, rfl, rfl⟩
  | fault r => simp only [hs] at h; cases h
  | refused r => simp only [hs] at h; cases h

/-- Settles O59: the engine stepped is replaced in its place, and a number of no engine replaces nothing. -/
theorem enginesIndependent : Obligations.EnginesIndependent := by
  intro p q k h
  cases hk : p[k]? with
  | none =>
    cases (stepEngine_none hk).symm.trans h
    exact ⟨rfl, fun _ _ => rfl, fun e he => by cases he⟩
  | some e =>
    obtain ⟨u, hu, rfl⟩ := stepEngine_some hk h
    refine ⟨List.length_set, fun j hj => List.getElem?_set_ne hj.symm, fun e' he => ?_⟩
    cases he
    exact ⟨u, hu, List.getElem?_set_self (List.getElem?_eq_some_iff.1 hk).1⟩

end Sys2Proof.Machine
end

section
/-! The fault of a CMD write: which word raises which code, and what the error entry leaves as it was (R201, R203, R204). -/

namespace Sys2Proof.Machine

variable {s t : State} {i : Instr} {w : Word32} {code : ErrCode}

/-- The code with which a command faults at its checks with ERR = 0, NONE where it passes them (R201, R207). -/
def State.faultOf (s : State) : Instr → ErrCode
  | .rbinit => if s.ctx = true ∧ s.len ≠ 0 then .rbinitMidhash else .none
  | .init => .none
  | .update _ | .final => if s.ctx = false then .noContext else if s.tvalid = false then .noTable else .none

/-- The code with which a word written to CMD faults with ERR = 0, NONE where it runs (R83, R201). -/
def State.faultOfWord (s : State) (w : Word32) : ErrCode :=
  match decode w with
  | .ok i => s.faultOf i
  | .error _ => .illegalCmd

theorem faultOfWord_ok (hd : decode w = .ok i) (s : State) : s.faultOfWord w = s.faultOf i := by
  unfold State.faultOfWord
  rw [hd]

theorem faultOfWord_error {e : DecodeError} (hd : decode w = .error e) (s : State) : s.faultOfWord w = .illegalCmd := by
  unfold State.faultOfWord
  rw [hd]

/-- With ERR = 0 a command passes its checks and ends with ERR = 0, or ends in the error entry with its code (R203, R204). -/
theorem exec_next_fault (he : s.err = false) (h : exec i s = .next t) :
    (s.faultOf i = .none ∧ t.err = false) ∨ (s.faultOf i ≠ .none ∧ t = s.raise (s.faultOf i) (encode i)) := by
  cases i with
  | rbinit =>
    obtain ⟨herr, -⟩ | ⟨-, hc, rfl⟩ | ⟨-, hc, rfl⟩ := rbinitWith_next h
    · cases he.symm.trans herr
    · have hmid : s.faultOf .rbinit = .rbinitMidhash := if_pos (by simpa using hc)
      exact .inr ⟨by simp [hmid], by rw [hmid]⟩
    · exact .inl ⟨if_neg (by simpa using hc), he⟩
  | init =>
    obtain ⟨herr, -⟩ | ⟨-, rfl⟩ := execInit_next h
    · cases he.symm.trans herr
    · exact .inl ⟨rfl, he⟩
  | update nbm1 =>
    obtain ⟨herr, -⟩ | ⟨-, hc, rfl⟩ | ⟨-, hc, hv, rfl⟩ | ⟨-, hc, hv, hf⟩ := updateWith_next h
    · cases he.symm.trans herr
    · exact .inr (by simp [State.faultOf, hc])
    · exact .inr (by simp [State.faultOf, hc, hv])
    · exact .inl ⟨by simp [State.faultOf, hc, hv], by rw [feed_frame hf]; exact he⟩
  | final =>
    obtain ⟨herr, -⟩ | ⟨-, hc, rfl⟩ | ⟨-, hc, hv, rfl⟩ | ⟨-, hc, hv, m, -, rfl⟩ := finalWith_next h
    · cases he.symm.trans herr
    · exact .inr (by simp [State.faultOf, hc])
    · exact .inr (by simp [State.faultOf, hc, hv])
    · exact .inl ⟨by simp [State.faultOf, hc, hv], he⟩

/-- The same of a write of any word to CMD: a fault records the word written (R38, R203). -/
theorem writeCmd_next_fault (he : s.err = false) (h : writeCmd w s = .next t) :
    (s.faultOfWord w = .none ∧ t.err = false) ∨
    (s.faultOfWord w ≠ .none ∧ t = s.raise (s.faultOfWord w) w) := by
  cases hd : decode w with
  | ok i =>
    obtain rfl := decode_eq_ok_iff.1 hd
    rw [writeCmd_ok he hd] at h
    rw [faultOfWord_ok hd]
    exact exec_next_fault he h
  | error e =>
    rw [writeCmd_illegal he hd] at h
    cases h
    rw [faultOfWord_error hd]
    exact .inr ⟨by simp, rfl⟩

/-! ### Which word raises which code -/

theorem faultOf_ne_illegalCmd (s : State) (i : Instr) : s.faultOf i ≠ .illegalCmd := by
  cases i <;> unfold State.faultOf <;> grind

/-- RBINIT inside a hash that has taken a byte (R201). -/
theorem faultOf_eq_rbinitMidhash : s.faultOf i = .rbinitMidhash ↔ i = .rbinit ∧ s.ctx = true ∧ s.len ≠ 0 := by
  cases i <;> unfold State.faultOf <;> grind

/-- UPDATE or FINAL without a context (R201). -/
theorem faultOf_eq_noContext :
    s.faultOf i = .noContext ↔ ((∃ nbm1, i = .update nbm1) ∨ i = .final) ∧ s.ctx = false := by
  cases i <;> unfold State.faultOf <;> grind

/-- UPDATE or FINAL in a context without a table (R201). -/
theorem faultOf_eq_noTable :
    s.faultOf i = .noTable ↔ ((∃ nbm1, i = .update nbm1) ∨ i = .final) ∧ s.ctx = true ∧ s.tvalid = false := by
  cases i <;> unfold State.faultOf <;> grind

theorem faultOfWord_eq_illegalCmd : s.faultOfWord w = .illegalCmd ↔ legal w = false := by
  rw [Bool.eq_false_iff, ne_eq, legal_iff_decode]
  cases hd : decode w with
  | ok i => simp [faultOfWord_ok hd, faultOf_ne_illegalCmd]
  | error e => simp [faultOfWord_error hd]

theorem faultOfWord_eq_rbinitMidhash :
    s.faultOfWord w = .rbinitMidhash ↔ decode w = .ok .rbinit ∧ s.ctx = true ∧ s.len ≠ 0 := by
  cases hd : decode w with
  | ok i => simp [faultOfWord_ok hd, faultOf_eq_rbinitMidhash]
  | error e => simp [faultOfWord_error hd]

theorem faultOfWord_eq_noContext :
    s.faultOfWord w = .noContext ↔
      ((∃ nbm1, decode w = .ok (.update nbm1)) ∨ decode w = .ok .final) ∧ s.ctx = false := by
  cases hd : decode w with
  | ok i => simp [faultOfWord_ok hd, faultOf_eq_noContext]
  | error e => simp [faultOfWord_error hd]

theorem faultOfWord_eq_noTable :
    s.faultOfWord w = .noTable ↔
      ((∃ nbm1, decode w = .ok (.update nbm1)) ∨ decode w = .ok .final) ∧ s.ctx = true ∧ s.tvalid = false := by
  cases hd : decode w with
  | ok i => simp [faultOfWord_ok hd, faultOf_eq_noTable]
  | error e => simp [faultOfWord_error hd]

/-! ### The statement -/

/-- A write of CMD ends with ERR = 1 and a code exactly where the word faults with it (R200, R203). -/
theorem writeCmd_errcode_iff (he : s.err = false) (h : writeCmd w s = .next t) (hc : code ≠ .none) :
    t.err = true ∧ t.errcode = code ↔ s.faultOfWord w = code := by
  obtain ⟨hf, ht⟩ | ⟨-, rfl⟩ := writeCmd_next_fault he h
  · simp [hf, ht, hc.symm]
  · simp

/-- Settles O55: a write of CMD that faults is the error entry, and the word's code is that of the checks of R201. -/
theorem faultsArePrecise : Obligations.FaultsArePrecise := by
  intro s t rest w hp he h
  rw [step_write hp rfl regAt_cmd] at h
  have hcode {code : ErrCode} (hc : code ≠ .none) := writeCmd_errcode_iff (s := s.withPending rest) he h hc
  refine ⟨fun herr => ?_, (hcode (by simp)).trans faultOfWord_eq_illegalCmd,
    (hcode (by simp)).trans faultOfWord_eq_rbinitMidhash, (hcode (by simp)).trans faultOfWord_eq_noContext,
    (hcode (by simp)).trans faultOfWord_eq_noTable, fun ⟨herr, hnone⟩ => ?_⟩ <;>
    obtain ⟨-, ht⟩ | ⟨hf, rfl⟩ := writeCmd_next_fault (s := s.withPending rest) he h
  · cases ht.symm.trans herr
  · rfl
  · cases ht.symm.trans herr
  · exact hf hnone

end Sys2Proof.Machine
end

section
/-! The life cycle over (ERR, TVALID, CTX): the table of R233, command by command. -/

namespace Sys2Proof.Machine

variable {s t : State} {i : Instr}

/-- Where the invariant holds, the faults of the table of R233 are those of the checks of R201: a context that has taken a
byte has a table. -/
theorem State.Inv.faultOf_eq_lifeCycleCode (h : s.Inv) (i : Instr) :
    s.faultOf i = lifeCycleCode i s.tvalid s.ctx (s.len == 0) := by
  cases i with
  | rbinit =>
    have htable : s.ctx = true → s.len ≠ 0 → s.tvalid = true := fun hc hl =>
      Bool.eq_true_of_not_eq_false fun hv => hl (h.lenWithoutTable hc hv)
    unfold State.faultOf lifeCycleCode
    grind
  | init => rfl
  | update _ | final => simp [State.faultOf, lifeCycleCode]

/-- A command that faults goes to (1, TVALID, CTX) in the table of R233. -/
theorem lifeCycle_of_fault {tvalid ctx lenZero : Bool} (h : lifeCycleCode i tvalid ctx lenZero ≠ .none) :
    lifeCycle i false tvalid ctx lenZero = (true, tvalid, ctx) := by
  cases i with
  | init => exact absurd rfl h
  | rbinit | update _ | final =>
    unfold lifeCycleCode at h
    grind [lifeCycle]

/-- A command that ends with ERR = 0 moves (ERR, TVALID, CTX) as the table of R233 says (R101, R121, R124, R130). -/
theorem exec_lifeCycle_of_not_fault (ht : t.err = false) (h : exec i s = .next t) :
    (t.err, t.tvalid, t.ctx) = lifeCycle i s.err s.tvalid s.ctx (s.len == 0) := by
  cases i with
  | rbinit =>
    obtain ⟨he, rfl⟩ | ⟨-, -, rfl⟩ | ⟨he, hc, rfl⟩ := rbinitWith_next h
    · cases ht.symm.trans he
    · cases ht
    · have hlen : s.ctx = true → s.len = 0 := by simpa using hc
      simpa [lifeCycle, he] using fun hctx (_ : s.tvalid = true) => hlen hctx
  | init =>
    obtain ⟨he, rfl⟩ | ⟨he, rfl⟩ := execInit_next h
    · cases ht.symm.trans he
    · simp [lifeCycle, he]
  | update nbm1 =>
    obtain ⟨he, rfl⟩ | ⟨-, -, rfl⟩ | ⟨-, -, -, rfl⟩ | ⟨he, hc, hv, hf⟩ := updateWith_next h
    · cases ht.symm.trans he
    · cases ht
    · cases ht
    · rw [feed_frame hf]
      simp [lifeCycle, he, hc, hv]
  | final =>
    obtain ⟨he, rfl⟩ | ⟨-, -, rfl⟩ | ⟨-, -, -, rfl⟩ | ⟨he, hc, hv, m, -, rfl⟩ := finalWith_next h
    · cases ht.symm.trans he
    · cases ht
    · cases ht
    · simp [lifeCycle, he, hc, hv]

/-- With ERR = 0 a command follows the table of R233, with the code it names. -/
theorem exec_lifeCycle_of_inv (hi : s.Inv) (he : s.err = false) (h : exec i s = .next t) :
    (t.err, t.tvalid, t.ctx) = lifeCycle i s.err s.tvalid s.ctx (s.len == 0) ∧
    t.errcode = lifeCycleCode i s.tvalid s.ctx (s.len == 0) := by
  have hcode := hi.faultOf_eq_lifeCycleCode i
  obtain ⟨hf, ht⟩ | ⟨hf, rfl⟩ := exec_next_fault he h
  · exact ⟨exec_lifeCycle_of_not_fault ht h, by rw [(hi.exec h).errcodeNone.2 ht, ← hcode, hf]⟩
  · rw [he, lifeCycle_of_fault (hcode ▸ hf)]
    exact ⟨rfl, hcode⟩

/-- Settles O56: a command completes and follows the table, or is ignored; an illegal word is the error entry; and reset. -/
theorem engineFollowsLifeCycle : Obligations.LifeCycle := by
  refine fun s hi => ⟨fun i => ?_, fun rest w hp he hl => ?_, fun rest hp => ⟨_, step_cons hp, rfl⟩⟩
  · obtain ⟨t, ht⟩ := exec_answers hi.tableFull i
    refine ⟨t, ht, ?_⟩
    cases he : s.err with
    | false => simpa [he] using exec_lifeCycle_of_inv hi he ht
    | true =>
      rw [exec_err i he] at ht
      cases ht
      simp [lifeCycle, he]
  · exact ⟨_, illegalWordRaisesIllegalCmd s rest w hp he hl, rfl, rfl⟩

end Sys2Proof.Machine
end
